-- ==== Sys2Proof/Word.lean ====
section
/-! DEFINITION. The two word types of the block: the byte of a payload and the 32-bit packet field (00_scope.md R11). -/

namespace Sys2Proof

/-- One payload byte: 8 bits (00_scope.md R11). -/
abbrev Byte := BitVec 8

/-- `FIELD_W = 32` (00_scope.md R11): the width of `seqnum`, `acknum`, `checksum` and of `rsp_result`. -/
abbrev FIELD_W : Nat := 32

/-- One 32-bit field, read unsigned wherever a rule compares it (00_scope.md section 6). -/
abbrev Word := BitVec FIELD_W

end Sys2Proof
end

