-- ==== Sys2Proof/Config.lean ====
section
/-! DEFINITION. The parameters of 00_scope.md R5 to R10 and of 40_packet_checksum_unit.md R70, which every rule of the
model takes as arguments, the derived widths of R11, the defaults this hardware takes, and the one value the spec leaves
OPEN (`TIMER_DURATION`). -/

namespace Sys2Proof.Config

/-- How a payload byte widens inside the checksum (40_packet_checksum_unit.md R70, 93_implementation_defined.md X3). -/
inductive ByteExt where
  | zero
  | sign
  deriving DecidableEq, Repr

/-- The named parameters of an ARQ block (00_scope.md R5 to R10 and the table that closes its section 4). -/
structure Params where
  /-- `W`, the capacity of each circular buffer (R5). -/
  windowSize : Nat
  /-- `S`, the size of the sequence space (R6). -/
  seqSpace : Nat
  /-- `P`, the bytes of a message (R7). -/
  payloadBytes : Nat
  /-- The sentinel carried in `acknum` of a data packet (R8). -/
  notInUse : Word
  /-- The payload byte of an acknowledgment (R9). -/
  filler : Byte
  /-- The interval carried by `TIMER_START` (R10), in the timer service's time units; that it is a natural number without
  a bound is the model's choice (assumption log 3). -/
  timerDuration : Nat
  /-- Checksum byte extension (40_packet_checksum_unit.md R70). -/
  byteExt : ByteExt
  deriving DecidableEq, Repr

/-! ## The derived widths, fixed by the parameters (00_scope.md R11) -/

/-- `IDX_W = ceil(log2 W)`. -/
abbrev Params.idxW (c : Params) : Nat := Nat.clog 2 c.windowSize

/-- `CNT_W = ceil(log2(W + 1))`. -/
abbrev Params.cntW (c : Params) : Nat := Nat.clog 2 (c.windowSize + 1)

/-- `SEQ_W = ceil(log2 S)`. -/
abbrev Params.seqW (c : Params) : Nat := Nat.clog 2 c.seqSpace

/-- `PKT_W = 96 + 8 P`. -/
abbrev Params.pktW (c : Params) : Nat := 96 + 8 * c.payloadBytes

/-- `CMD_W = 4 + PKT_W`. -/
abbrev Params.cmdW (c : Params) : Nat := 4 + c.pktW

/-! ## The defaults this hardware takes (the table that closes 00_scope.md section 4) -/

/-- `W = 6` (00_scope.md R5; assumption log 1). -/
abbrev WINDOWSIZE : Nat := 6

/-- `S = 2W` exactly (00_scope.md R6, 90_conflicts.md C1). -/
abbrev SEQSPACE : Nat := 2 * WINDOWSIZE

/-- `P = 20` (00_scope.md R7, 93_implementation_defined.md GK1; PRESUMED, assumption log 2). -/
abbrev PAYLOAD_BYTES : Nat := 20

/-- `NOTINUSE = 0xFFFFFFFF` (00_scope.md R8, GK2; PRESUMED, assumption log 2). -/
def NOTINUSE : Word := 0xFFFFFFFF#32

/-- `FILLER = 0x30` (00_scope.md R9, GK3; PRESUMED, assumption log 2). -/
def FILLER : Byte := 0x30#8

/-- `TIMER_DURATION` (00_scope.md R10): OPEN in the spec, so a constant without a value. The spec gives it no unit and no
width either; that a duration is a natural number without a bound is the model's choice (assumption log 3). -/
opaque TIMER_DURATION : Nat

/-- `BYTE_EXT` at its default, zero-extension (40_packet_checksum_unit.md R70; assumption log 4). -/
def BYTE_EXT : ByteExt := .zero

/-- This hardware's parameter record. -/
abbrev params : Params where
  windowSize := WINDOWSIZE
  seqSpace := SEQSPACE
  payloadBytes := PAYLOAD_BYTES
  notInUse := NOTINUSE
  filler := FILLER
  timerDuration := TIMER_DURATION
  byteExt := BYTE_EXT

/-- `IDX_W` at the default (00_scope.md R11). -/
abbrev IDX_W : Nat := 3

/-- `CNT_W` at the default (00_scope.md R11). -/
abbrev CNT_W : Nat := 3

/-- `SEQ_W` at the default (00_scope.md R11). -/
abbrev SEQ_W : Nat := 4

/-- The bits of a message (20_memory.md R36). -/
abbrev MSG_W : Nat := 8 * PAYLOAD_BYTES

/-- `PKT_W = 96 + 8 P` (00_scope.md R11). -/
abbrev PKT_W : Nat := 96 + MSG_W

/-- `SLOT_W = PKT_W + 1` (20_memory.md R30). -/
abbrev SLOT_W : Nat := PKT_W + 1

/-- `CMD_W = 4 + PKT_W` (00_scope.md R11, 30_encoding.md R45). -/
abbrev CMD_W : Nat := 4 + PKT_W

end Sys2Proof.Config
end

