-- ==== Sys2Proof/Syntax.lean ====
section
/-! DEFINITION. Messages, packets, command words, and the eleven commands of 30_encoding.md R47 (the rows of
spec/opcode_table.json), each with the operands it uses and no others (R49). -/

namespace Sys2Proof

open Config

/-- A message: the bit vector `msg[8P-1:0]`, byte `i` at `msg[8i+7:8i]` (20_memory.md R36). -/
abbrev Message := BitVec MSG_W

/-- A command word, `CMD_W` bits (30_encoding.md R45). -/
abbrev CmdWord := BitVec CMD_W

/-- The wire unit and its four fields (20_memory.md R36), with a payload of `P` bytes. -/
structure PacketOf (P : Nat) where
  seqnum : Word
  acknum : Word
  checksum : Word
  payload : BitVec (8 * P)
  deriving DecidableEq, Repr

/-- A packet of this hardware. -/
abbrev Packet := PacketOf PAYLOAD_BYTES

/-- The commands, one constructor per row of the opcode table. -/
inductive Instr where
  /-- `CHK.COMPUTE`, opcode 0x0 (40_packet_checksum_unit.md R70). -/
  | chkCompute (seqnum acknum : Word) (payload : Message)
  /-- `CHK.VERIFY`, opcode 0x1 (R71). -/
  | chkVerify (pkt : Packet)
  /-- `SEQ.ADD`, opcode 0x4 (41_sequence_modulo_comparator.md R76). -/
  | seqAdd (a b : Word)
  /-- `SEQ.SUB`, opcode 0x5 (R77). -/
  | seqSub (a b : Word)
  /-- `SEQ.INRANGE`, opcode 0x6 (R78). -/
  | seqInrange (first last x : Word)
  /-- `SND.INIT`, opcode 0x8 (42_sender_window_fsm.md R83). -/
  | sndInit
  /-- `SND.SUBMIT`, opcode 0x9 (R84, R85). -/
  | sndSubmit (msg : Message)
  /-- `SND.PKT`, opcode 0xA (R86 to R94). -/
  | sndPkt (pkt : Packet)
  /-- `SND.TIMEOUT`, opcode 0xB (R95 to R97). -/
  | sndTimeout
  /-- `RCV.INIT`, opcode 0xC (43_receiver_reorder_fsm.md R105). -/
  | rcvInit
  /-- `RCV.PKT`, opcode 0xD (R106 to R113). -/
  | rcvPkt (pkt : Packet)
  deriving DecidableEq, Repr

end Sys2Proof
end

