-- ==== Sys2Proof/WellFormed.lean ====
section
/-! DEFINITION. Well-formedness: the constraints a parameter record must meet to be an ARQ block at all
(70_reset_and_hazards.md R145, 93_implementation_defined.md X11), the well-formedness of a command, and the size check
of a message given as bytes (20_memory.md R37). -/

namespace Sys2Proof

open Config

/-- R145: `W >= 1`; `S = 2W`; `P >= 1`; `NOTINUSE >= S` read unsigned; `S <= 2^32`. -/
def Config.Params.wellFormed (c : Params) : Bool :=
  decide (1 ≤ c.windowSize) && decide (c.seqSpace = 2 * c.windowSize) && decide (1 ≤ c.payloadBytes)
    && decide (c.seqSpace ≤ c.notInUse.toNat) && decide (c.seqSpace ≤ 2 ^ FIELD_W)

/-- A message written as a list of bytes has the one fixed size `P` (20_memory.md R37, decision D39). -/
def messageBytesWellFormed (bytes : List Byte) : Bool := bytes.length == PAYLOAD_BYTES

/-- A number written for a 32-bit operand fits it (30_encoding.md R46). -/
def operandWellFormed (n : Nat) : Bool := decide (n < 2 ^ FIELD_W)

/-- Every operand of a command is a fixed slice of the command word and every value of it is legal (30_encoding.md R48,
R49, R52), so the types of `Instr` leave nothing to check. An operand of `SEQ.ADD` outside `[0, S)` is not an ill-formed
command: it runs and answers `ILLEGAL` (41_sequence_modulo_comparator.md R76). -/
def Instr.wellFormed : Instr → Bool
  | .chkCompute _ _ _ => true
  | .chkVerify _ => true
  | .seqAdd _ _ => true
  | .seqSub _ _ => true
  | .seqInrange _ _ _ => true
  | .sndInit => true
  | .sndSubmit _ => true
  | .sndPkt _ => true
  | .sndTimeout => true
  | .rcvInit => true
  | .rcvPkt _ => true

end Sys2Proof
end

