-- ==== Sys2Proof/Decode.lean ====
section
/-! DEFINITION. The bit layout of packets (20_memory.md R36) and of command words (30_encoding.md R46, R47), for any payload
size: the decoder, total on every command word and rejecting reserved opcodes by name (R50, R52), and after it the encoder. -/

namespace Sys2Proof

open Config

/-! ## Packets as bit vectors (20_memory.md R36) -/

/-- The packet held in `PKT_W` bits. -/
def packetOfBits {P : Nat} (v : BitVec (96 + 8 * P)) : PacketOf P where
  seqnum := v.extractLsb' 0 32
  acknum := v.extractLsb' 32 32
  checksum := v.extractLsb' 64 32
  payload := v.extractLsb' 96 (8 * P)

/-- The `PKT_W` bits of a packet. -/
def packetToBits {P : Nat} (p : PacketOf P) : BitVec (96 + 8 * P) :=
  p.seqnum.setWidth (96 + 8 * P) ||| (p.acknum.setWidth (96 + 8 * P) <<< 32)
    ||| (p.checksum.setWidth (96 + 8 * P) <<< 64) ||| (p.payload.setWidth (96 + 8 * P) <<< 96)

/-- Byte `n` of a packet's byte image, `pkt[8n+7:8n]` (R36). -/
def packetImageByte {P : Nat} (p : PacketOf P) (n : Nat) : Byte := (packetToBits p).extractLsb' (8 * n) 8

/-- The byte image: `12 + P` bytes (R36). -/
def packetImage {P : Nat} (p : PacketOf P) : List Byte := (List.range (12 + P)).map (packetImageByte p)

/-! ## Fields of a command word (30_encoding.md R46) -/

/-- `op = cmd[1:0]`: the operation within the unit. -/
def opField {n : Nat} (w : BitVec n) : BitVec 2 := w.extractLsb' 0 2

/-- `unit = cmd[3:2]`: 0 checksum, 1 sequence arithmetic, 2 sender, 3 receiver. -/
def unitField {n : Nat} (w : BitVec n) : BitVec 2 := w.extractLsb' 2 2

/-- `opcode = cmd[3:0] = {unit, op}`. -/
def opcodeField {n : Nat} (w : BitVec n) : BitVec 4 := w.extractLsb' 0 4

/-- `a = cmd[35:4]`. -/
def fieldA {n : Nat} (w : BitVec n) : Word := w.extractLsb' 4 32

/-- `b = cmd[67:36]`. -/
def fieldB {n : Nat} (w : BitVec n) : Word := w.extractLsb' 36 32

/-- `c = cmd[99:68]`. -/
def fieldC {n : Nat} (w : BitVec n) : Word := w.extractLsb' 68 32

/-- The `d` bytes as one message: `d[i] = cmd[100+8i+7:100+8i]`. -/
def fieldD {n : Nat} (w : BitVec n) (P : Nat := PAYLOAD_BYTES) : BitVec (8 * P) := w.extractLsb' 100 (8 * P)

/-- `pkt = cmd[CMD_W-1:4]`: the operand block as a packet. -/
def operandPacket {n : Nat} (w : BitVec n) (P : Nat := PAYLOAD_BYTES) : PacketOf P :=
  packetOfBits (w.extractLsb' 4 (96 + 8 * P))

/-! ## The decoder -/

/-- Why a word is no command. -/
inductive DecodeError where
  /-- Opcodes 0x2, 0x3, 0x7, 0xE, 0xF (30_encoding.md R50). -/
  | reservedOpcode (opcode : BitVec 4)
  deriving DecidableEq, Repr

/-- The opcode map of 30_encoding.md R47; it looks at `cmd[3:0]` and nothing else. Reserved opcodes are rejected by name
(R50); every word is decoded or rejected (R52). -/
def decode (w : CmdWord) : Except DecodeError Instr :=
  match (opcodeField w).toNat with
  | 0x0 => .ok (.chkCompute (fieldA w) (fieldB w) (fieldD w))
  | 0x1 => .ok (.chkVerify (operandPacket w))
  | 0x4 => .ok (.seqAdd (fieldA w) (fieldB w))
  | 0x5 => .ok (.seqSub (fieldA w) (fieldB w))
  | 0x6 => .ok (.seqInrange (fieldA w) (fieldB w) (fieldC w))
  | 0x8 => .ok .sndInit
  | 0x9 => .ok (.sndSubmit (fieldD w))
  | 0xA => .ok (.sndPkt (operandPacket w))
  | 0xB => .ok .sndTimeout
  | 0xC => .ok .rcvInit
  | 0xD => .ok (.rcvPkt (operandPacket w))
  | _ => .error (.reservedOpcode (opcodeField w))

/-- The command word whose low `nbits` bits are those of `w` and whose other bits are 0 (assumption log 5). -/
def tableCommandWord (nbits w : Nat) : CmdWord := BitVec.ofNat CMD_W (w % 2 ^ nbits)

/-- The command the decoder reads from a word given as the opcode table numbers its bits. -/
def decodeTableWord (nbits w : Nat) : Option Instr :=
  match decode (tableCommandWord nbits w) with
  | .ok i => some i
  | .error _ => none

/-! ## The encoder -/

/-- The opcode of a command (30_encoding.md R47). -/
def opcodeOf : Instr → BitVec 4
  | .chkCompute _ _ _ => 0x0#4
  | .chkVerify _ => 0x1#4
  | .seqAdd _ _ => 0x4#4
  | .seqSub _ _ => 0x5#4
  | .seqInrange _ _ _ => 0x6#4
  | .sndInit => 0x8#4
  | .sndSubmit _ => 0x9#4
  | .sndPkt _ => 0xA#4
  | .sndTimeout => 0xB#4
  | .rcvInit => 0xC#4
  | .rcvPkt _ => 0xD#4

/-- The operand block of a command, as a packet; a field the command does not use is zero (30_encoding.md R49). -/
def operandsOf : Instr → Packet
  | .chkCompute seqnum acknum payload => ⟨seqnum, acknum, 0, payload⟩
  | .chkVerify pkt => pkt
  | .seqAdd a b => ⟨a, b, 0, 0⟩
  | .seqSub a b => ⟨a, b, 0, 0⟩
  | .seqInrange first last x => ⟨first, last, x, 0⟩
  | .sndInit => ⟨0, 0, 0, 0⟩
  | .sndSubmit msg => ⟨0, 0, 0, msg⟩
  | .sndPkt pkt => pkt
  | .sndTimeout => ⟨0, 0, 0, 0⟩
  | .rcvInit => ⟨0, 0, 0, 0⟩
  | .rcvPkt pkt => pkt

/-- Format `C`, the only format: the opcode in `cmd[3:0]` and the operand block above it (30_encoding.md R46). -/
def formatC {P : Nat} (opcode : BitVec 4) (operands : PacketOf P) : BitVec (4 + (96 + 8 * P)) :=
  opcode.setWidth (4 + (96 + 8 * P)) ||| ((packetToBits operands).setWidth (4 + (96 + 8 * P)) <<< 4)

/-- The command word of a command. -/
def encode (i : Instr) : CmdWord := formatC (opcodeOf i) (operandsOf i)

/-- The bits of a command word that the command with this opcode reads (30_encoding.md R47, R49); the others are ignored.
A reserved opcode is rejected before any operand is looked at (60_exceptions.md R124). -/
def usedBits (opcode : BitVec 4) : CmdWord :=
  let a : CmdWord := 0xFFFFFFFF <<< 4
  let b : CmdWord := 0xFFFFFFFF <<< 36
  let c : CmdWord := 0xFFFFFFFF <<< 68
  let d : CmdWord := (BitVec.allOnes MSG_W).setWidth CMD_W <<< 100
  let op : CmdWord := 0xF
  match opcode.toNat with
  | 0x0 => op ||| a ||| b ||| d
  | 0x1 => op ||| a ||| b ||| c ||| d
  | 0x4 => op ||| a ||| b
  | 0x5 => op ||| a ||| b
  | 0x6 => op ||| a ||| b ||| c
  | 0x9 => op ||| d
  | 0xA => op ||| a ||| b ||| c ||| d
  | 0xD => op ||| a ||| b ||| c ||| d
  | _ => op

end Sys2Proof
end

