-- ==== Sys2Proof/Machine/State.lean ====
section
/-! DEFINITION. The architectural state (10_state.md R12 to R29), the output records and responses a command produces
(30_encoding.md R55 to R58), the command stream the environment presents, the reasons a step can stop, and the state
after reset. -/

namespace Sys2Proof.Machine

open Config

/-! ## What a command hands to the environment -/

/-- The reporting events (30_encoding.md R58). -/
inductive Event where
  | windowFull
  | ackRx
  | newAck
  | retransmit
  | dataRx
  deriving DecidableEq, Repr

/-- The output records (30_encoding.md R56). `TIMER_START` carries the constant `TIMER_DURATION` (R53: a constant port);
`Sys2Proof.Machine.carriedBy` gives it. -/
inductive OutputOf (P : Nat) where
  /-- `TX(pkt)`. -/
  | tx (pkt : PacketOf P)
  /-- `DELIVER(payload)`. -/
  | deliver (payload : BitVec (8 * P))
  /-- `TIMER_START(TIMER_DURATION)`. -/
  | timerStart
  /-- `TIMER_STOP`. -/
  | timerStop
  /-- `EVT(name)`. -/
  | evt (event : Event)
  deriving DecidableEq, Repr

/-- The output records of this hardware. -/
abbrev Output := OutputOf PAYLOAD_BYTES

/-- The response codes by name (30_encoding.md R57). -/
inductive RspCode where
  | initDone
  | submitAccepted
  | submitWindowFull
  | ackCorrupt
  | ackDuplicate
  | ackNew
  | ackNewSlide
  | timeoutRetransmit
  | timeoutNothing
  | timeoutSpurious
  | dataCorrupt
  | dataOutOfRange
  | dataBuffered
  | dataDelivered
  | leafResult
  | illegal
  deriving DecidableEq, Repr

/-- `rsp_code` and `rsp_result` (30_encoding.md R53, R57). -/
structure Response where
  code : RspCode
  result : Word
  deriving DecidableEq, Repr

/-! ## What the environment presents -/

/-- What the environment drives on the block's inputs at a step (30_encoding.md R45, R54). -/
inductive Input where
  /-- A command word on the command port (`cmd_valid = 1`). -/
  | command (word : CmdWord)
  /-- `rst = 1` at a rising edge (70_reset_and_hazards.md R140). -/
  | reset
  deriving DecidableEq, Repr

/-! ## Architectural state -/

/-- One record of the sender window: `SLOT_W` bits (10_state.md R19, 20_memory.md R30). -/
structure SlotOf (P : Nat) where
  pkt : PacketOf P
  acked : Bool
  deriving DecidableEq, Repr

/-- A slot of this hardware's sender window. -/
abbrev Slot := SlotOf PAYLOAD_BYTES

/-- The state the sender engine U2 owns (10_state.md R12 to R20, R26), of a window of `W` slots and of registers with
the derived widths of 00_scope.md R11. -/
structure SenderStateOf (W idxW cntW seqW P : Nat) where
  /-- R13: index of the oldest live slot. -/
  windowfirst : BitVec idxW
  /-- R14: index of the most recently inserted packet. -/
  windowlast : BitVec idxW
  /-- R15: live slots not acknowledged. -/
  windowcount : BitVec cntW
  /-- R16: live slots acknowledged and not yet slid out. -/
  ackcount : BitVec cntW
  /-- R17: the next sequence number to assign. -/
  nextseqnum : BitVec seqW
  /-- R18: the shadow of the external timer. -/
  timer_armed : Bool
  /-- R19: the address space `SND`. -/
  snd_win : Vector (SlotOf P) W
  deriving DecidableEq, Repr

/-- `SenderState` of this hardware. -/
abbrev SenderState := SenderStateOf WINDOWSIZE IDX_W CNT_W SEQ_W PAYLOAD_BYTES

/-- The state the receiver engine U3 owns (10_state.md R21 to R23, R25). -/
structure ReceiverStateOf (W idxW seqW P : Nat) where
  /-- R21: the next sequence number to deliver. -/
  expectedseqnum : BitVec seqW
  /-- R22: the slot where that packet is or will be stored. -/
  rcv_base : BitVec idxW
  /-- R23: the acknowledgment counter. -/
  b_nextseqnum : BitVec seqW
  /-- R25: the address space `RCV`; no valid bit. -/
  rcv_buf : Vector (PacketOf P) W
  deriving DecidableEq, Repr

/-- `ReceiverState` of this hardware. -/
abbrev ReceiverState := ReceiverStateOf WINDOWSIZE IDX_W SEQ_W PAYLOAD_BYTES

/-- The machine: the two engines' records, which are all the state the spec gives the block (10_state.md, opening
paragraph; R24, R27, R28), and three fields of the model that make its ports plain data (assumption log 6 and 7). -/
structure State where
  /-- `SenderState` (R12). -/
  sender : SenderState
  /-- `ReceiverState` (R12). -/
  receiver : ReceiverState
  /-- The model's: what the environment has still to present, in presentation order (R45, 60_exceptions.md R125). -/
  inputs : List Input
  /-- The model's: the output records of the last command, in emission order (30_encoding.md R55). -/
  outputs : List Output
  /-- The model's: the response of the last command; none right after reset (30_encoding.md R57, R140). -/
  response : Option Response
  deriving DecidableEq, Repr

/-! ## Reset (10_state.md R29, 70_reset_and_hazards.md R140) -/

/-- All bits 0. -/
def zeroPacket {P : Nat} : PacketOf P := ⟨0, 0, 0, 0⟩

/-- A receiver slot after initialisation: `seqnum = NOTINUSE`, the rest 0 (R29, decision D16). -/
def emptyRcvSlot {P : Nat} (notInUse : Word := NOTINUSE) : PacketOf P := ⟨notInUse, 0, 0, 0⟩

/-- The sender rows of R29. -/
def SenderStateOf.reset {W idxW cntW seqW P : Nat} : SenderStateOf W idxW cntW seqW P where
  windowfirst := 0
  windowlast := BitVec.ofNat idxW (W - 1)
  windowcount := 0
  ackcount := 0
  nextseqnum := 0
  timer_armed := false
  snd_win := Vector.replicate W ⟨zeroPacket, false⟩

/-- The receiver rows of R29. -/
def ReceiverStateOf.reset {W idxW seqW P : Nat} (notInUse : Word := NOTINUSE) : ReceiverStateOf W idxW seqW P where
  expectedseqnum := 0
  rcv_base := 0
  b_nextseqnum := 1
  rcv_buf := Vector.replicate W (emptyRcvSlot notInUse)

/-- The machine right after reset: R29, nothing presented, no output record and no response (R140). -/
def State.reset : State where
  sender := SenderStateOf.reset
  receiver := ReceiverStateOf.reset
  inputs := []
  outputs := []
  response := none

/-! ## Why a step can stop -/

/-- No step faults: "No condition in this core is fatal" (60_exceptions.md R120), and every command has a defined result
in every state (30_encoding.md R52). The type has no constructor; that is safe, since nothing can claim a fault. -/
inductive Fault where
  deriving DecidableEq, Repr

/-- Why a step has no meaning. -/
inductive Refusal where
  /-- Raised only by an arm of `exec` whose instruction has no meaning yet (none is left). Safe: nothing is claimed of the
  instruction. -/
  | notModelled (mnemonic : String)
  deriving DecidableEq, Repr

end Sys2Proof.Machine
end

