-- ==== Sys2Proof/Machine/Ops.lean ====
section
/-! DEFINITION. The operations every command is built from: slot memories and their addressing (20_memory.md R30 to R39),
how a command ends (outputs and one response, 30_encoding.md R55, R57), the one exceptional ending `raise ILLEGAL`
(60_exceptions.md R127), and what the inputs of the block do before a command runs. -/

namespace Sys2Proof.Machine

open Config

/-! ## Slot memories -/

/-- `MemRead(space, i)`: the whole record of one slot. Every index is reduced modulo `W` before use (20_memory.md
section 2), so no access falls outside an array (assumption log 8). -/
def memRead {α : Type} {W : Nat} [NeZero W] (mem : Vector α W) (i : Nat) : α :=
  mem[i % W]'(Nat.mod_lt _ (NeZero.pos W))

/-- `MemWrite(space, i, v)`: replaces the whole record of one slot (20_memory.md R39). -/
def memWrite {α : Type} {W : Nat} [NeZero W] (mem : Vector α W) (i : Nat) (v : α) : Vector α W :=
  mem.set (i % W) v (Nat.mod_lt _ (NeZero.pos W))

/-- Both slot arrays have the fixed size `W` by their type, so the list of slots has one form only and two equal memories
are equal data; the predicate says that size (20_memory.md R30). -/
abbrev Memory.wf {α : Type} {W : Nat} (mem : Vector α W) : Prop := mem.toList.length = W

/-- `(i + 1) mod W` on an index register (41_sequence_modulo_comparator.md R81). -/
def nextIndex {idxW : Nat} (i : BitVec idxW) (W : Nat := WINDOWSIZE) : BitVec idxW :=
  BitVec.ofNat idxW ((i.toNat + 1) % W)

variable {W idxW cntW seqW P : Nat}

/-- `L = windowcount + ackcount`, the number of live slots, as an exact sum (10_state.md R20). -/
def liveCount (s : SenderStateOf W idxW cntW seqW P) : Nat := s.windowcount.toNat + s.ackcount.toNat

/-- The index of the slot `k` places after the oldest: `(windowfirst + k) mod W` (20_memory.md R32, R33). -/
def windowIndex (s : SenderStateOf W idxW cntW seqW P) (k : Nat) : Nat := (s.windowfirst.toNat + k) % W

/-- The indices of the live slots, oldest first (10_state.md R20). -/
def liveIndices (s : SenderStateOf W idxW cntW seqW P) : List Nat := (List.range (liveCount s)).map (windowIndex s)

/-! ## How a command ends -/

/-- What a command of one engine does: the engine's new state, its output records in emission order, and its one
response (00_scope.md section 5). -/
structure ReactionOf (P : Nat) (σ : Type) where
  state : σ
  outputs : List (OutputOf P)
  response : Response
  deriving DecidableEq, Repr

/-- What a command of this hardware does to an engine. -/
abbrev Reaction (σ : Type) := ReactionOf PAYLOAD_BYTES σ

/-- `respond(code)`: the result is 0 (30_encoding.md R57). -/
def respond (code : RspCode) : Response := ⟨code, 0⟩

/-- `respond(code, result)`. -/
def respondWith (code : RspCode) (result : Word) : Response := ⟨code, result⟩

/-- The command ends with these outputs and this response; no engine register or slot changes. -/
def conclude (s : State) (outputs : List Output) (response : Response) : State :=
  { s with outputs := outputs, response := some response }

/-- A command of U2 ends: only `SenderState` changes (10_state.md R12). -/
def concludeSender (s : State) (r : Reaction SenderState) : State :=
  { conclude s r.outputs r.response with sender := r.state }

/-- A command of U3 ends: only `ReceiverState` changes (10_state.md R12). -/
def concludeReceiver (s : State) (r : Reaction ReceiverState) : State :=
  { conclude s r.outputs r.response with receiver := r.state }

/-- A command of U0 or U1 ends with its function value (30_encoding.md R57, code 0xE). -/
def concludeLeaf (s : State) (value : Word) : State := conclude s [] (respondWith .leafResult value)

/-- `raise ILLEGAL` (60_exceptions.md R127), the block's only exceptional ending: response `0xF`, result 0, no output and
no change to any register, slot or `timer_armed`. It saves nothing and transfers no control, and there is no return from
it (R120, R126). -/
def raiseIllegal (s : State) : State := conclude s [] (respond .illegal)

/-! ## The inputs of the block -/

/-- No command is presented: the block is idle and keeps all state (70_reset_and_hazards.md R141; assumption log 9). -/
def idle (s : State) : State := s

/-- `rst = 1` at a clock edge (70_reset_and_hazards.md R140): every register and slot takes its reset value, and there is
no output record and no response; `s` is the state whose stream has moved past the reset. -/
def takeReset (s : State) : State :=
  { sender := SenderStateOf.reset, receiver := ReceiverStateOf.reset, inputs := s.inputs, outputs := [], response := none }

/-- Takes the next input off the stream: what it is, and the state whose stream has moved past it. -/
def takeInput (s : State) : Option (Input × State) :=
  match s.inputs with
  | [] => none
  | input :: rest => some (input, { s with inputs := rest })

/-- Puts a command word at the head of the stream: it is what the environment presents next. -/
def present (s : State) (word : CmdWord) : State := { s with inputs := .command word :: s.inputs }

end Sys2Proof.Machine
end

