-- ==== Sys2Proof/Machine/Operands.lean ====
section
/-! DEFINITION. Operands as the rules read them: payload bytes and their widening (30_encoding.md R48,
40_packet_checksum_unit.md R70), messages made of bytes (20_memory.md R36), registers widened to packet fields. -/

namespace Sys2Proof.Machine

open Config

/-- `zext_32` of a sequence register (30_encoding.md R48). -/
def zextSeq {seqW : Nat} (r : BitVec seqW) : Word := r.setWidth FIELD_W

/-- `payload[i]`, byte `i` of a message: `msg[8i+7:8i]` (20_memory.md R36). -/
def messageByte {P : Nat} (m : BitVec (8 * P)) (i : Nat) : Byte := m.extractLsb' (8 * i) 8

/-- The `P` bytes of a message, `payload[0]` first. -/
def messageBytes {P : Nat} (m : BitVec (8 * P)) : List Byte := (List.range P).map (messageByte m)

/-- The message with these bytes, the first one in the lowest bits; bytes beyond `P` do not fit and are lost. -/
def messageOfBytes (bytes : List Byte) (P : Nat := PAYLOAD_BYTES) : BitVec (8 * P) :=
  bytes.foldr (fun b m => (m <<< 8) ||| b.setWidth (8 * P)) 0

/-- `FILLER` in every byte (40_packet_checksum_unit.md R72). -/
def fillerMessage (P : Nat := PAYLOAD_BYTES) (filler : Byte := FILLER) : BitVec (8 * P) :=
  messageOfBytes (List.replicate P filler) P

/-- A payload byte widened to 32 bits: `zext_32`, or `sext_32` where `BYTE_EXT` says so (40_packet_checksum_unit.md
R70). -/
def widenByte (ext : ByteExt) (b : Byte) : Word :=
  match ext with
  | .zero => b.setWidth FIELD_W
  | .sign => b.signExtend FIELD_W

end Sys2Proof.Machine
end

