-- ==== Sys2Proof/Machine/Flags.lean ====
section
/-! DEFINITION. The flags, which are the `acked` bits of the sender window and nothing else (10_state.md R26), and the
status derived from the counts (R20, R26; 42_sender_window_fsm.md R99). -/

namespace Sys2Proof.Machine

open Config

variable {W idxW cntW seqW P : Nat}

/-- `snd_win[i].acked`. -/
def isAcked [NeZero W] (win : Vector (SlotOf P) W) (i : Nat) : Bool := (memRead win i).acked

/-- `snd_win[i].acked <- 1`: only the flag; the packet keeps its value (20_memory.md R39, decision D37). -/
def setAcked [NeZero W] (win : Vector (SlotOf P) W) (i : Nat) : Vector (SlotOf P) W :=
  memWrite win i { memRead win i with acked := true }

/-- `snd_empty = (L = 0)` (R26). -/
def sndEmpty (s : SenderStateOf W idxW cntW seqW P) : Bool := liveCount s == 0

/-- `snd_full = (L = W)` (R26). -/
def sndFull (s : SenderStateOf W idxW cntW seqW P) : Bool := liveCount s == W

/-- The protocol-level states of the sender (42_sender_window_fsm.md R99). -/
inductive WindowPhase where
  | empty
  | opened
  | full
  deriving DecidableEq, Repr

/-- The phase is a function of `L` and is not stored (R99). -/
def windowPhase (s : SenderStateOf W idxW cntW seqW P) : WindowPhase :=
  if liveCount s = 0 then .empty else if liveCount s < W then .opened else .full

end Sys2Proof.Machine
end

