-- ==== Sys2Proof/Machine/Checksum.lean ====
section
/-! DEFINITION. U0 `packet_checksum_unit` (40_packet_checksum_unit.md R70 to R74): the functions `chk` and `corrupted`,
the packets the engines build, and the commands `CHK.COMPUTE` and `CHK.VERIFY`. -/

namespace Sys2Proof.Machine

open Config

variable {P : Nat}

/-- The checksum under either setting of `BYTE_EXT` (R70): a 32-bit sum that wraps (R82 a). -/
def chkWith (ext : ByteExt) (seqnum acknum : Word) (payload : BitVec (8 * P)) : Word :=
  seqnum + acknum + ((messageBytes payload).map (widenByte ext)).sum

/-- `chk(seqnum, acknum, payload)` (R70). -/
def chk (seqnum acknum : Word) (payload : BitVec (8 * P)) (ext : ByteExt := BYTE_EXT) : Word :=
  chkWith ext seqnum acknum payload

/-- `corrupted(pkt)` (R71): the recomputed checksum differs from the carried one, on all 32 bits. -/
def corrupted (p : PacketOf P) (ext : ByteExt := BYTE_EXT) : Bool := chk p.seqnum p.acknum p.payload ext != p.checksum

/-- The packet with these fields and a freshly computed checksum (R72). -/
def buildPacket (seqnum acknum : Word) (payload : BitVec (8 * P)) (ext : ByteExt := BYTE_EXT) : PacketOf P :=
  ⟨seqnum, acknum, chk seqnum acknum payload ext, payload⟩

/-- A data packet for sequence number `n` and message `m` (R72). -/
def dataPacket {seqW : Nat} (n : BitVec seqW) (m : BitVec (8 * P)) (notInUse : Word := NOTINUSE)
    (ext : ByteExt := BYTE_EXT) : PacketOf P := buildPacket (zextSeq n) notInUse m ext

/-- An acknowledgment packet with own number `own` that echoes `echoed` (R72). -/
def ackPacket {seqW : Nat} (own : BitVec seqW) (echoed : Word) (P : Nat := PAYLOAD_BYTES) (filler : Byte := FILLER)
    (ext : ByteExt := BYTE_EXT) : PacketOf P := buildPacket (zextSeq own) echoed (fillerMessage P filler) ext

/-- `CHK.COMPUTE` (R70). -/
def execChkCompute (seqnum acknum : Word) (payload : Message) (s : State) : Host.Outcome State Fault Refusal :=
  .next (concludeLeaf s (chk seqnum acknum payload))

/-- `CHK.VERIFY` (R71): 1 corrupted, 0 not. -/
def execChkVerify (pkt : Packet) (s : State) : Host.Outcome State Fault Refusal :=
  .next (concludeLeaf s (if corrupted pkt then 1 else 0))

end Sys2Proof.Machine
end

