-- ==== Sys2Proof/Machine/Sequence.lean ====
section
/-! DEFINITION. U1 `sequence_modulo_comparator` (41_sequence_modulo_comparator.md R75 to R82): arithmetic modulo `S` on
exact integers, the circular range test, and the commands `SEQ.ADD`, `SEQ.SUB`, `SEQ.INRANGE`. -/

namespace Sys2Proof.Machine

open Config

/-- `seq_valid(x) = (x < S)`, `x` read unsigned (R75). -/
def seqValid (x : Nat) (S : Nat := SEQSPACE) : Bool := decide (x < S)

/-- `seq_add(x, y) = (x + y) mod S` (R76). -/
def seqAdd (x y : Nat) (S : Nat := SEQSPACE) : Nat := (x + y) % S

/-- `seq_sub(x, y) = (x - y) mod S`, the mathematical remainder of an integer that may be negative (R77, 00_scope.md
section 6). -/
def seqSub (x y : Nat) (S : Nat := SEQSPACE) : Nat := (((x : Int) - (y : Int)) % (S : Int)).toNat

/-- `seq_inrange(first, last, x)`, the circular range test by distances (R78). -/
def seqInrange (first last x : Nat) (S : Nat := SEQSPACE) : Bool :=
  seqValid first S && seqValid last S && seqValid x S && decide (seqSub x first S ≤ seqSub last first S)

/-- `seq_add(r, 1)` written back to a sequence register (R82 b). -/
def nextSeq {seqW : Nat} (r : BitVec seqW) (S : Nat := SEQSPACE) : BitVec seqW := BitVec.ofNat seqW (seqAdd r.toNat 1 S)

/-- R76: the sum modulo `S`, or `ILLEGAL` when an operand is not a sequence number. -/
def leafSeqAdd (a b : Word) (S : Nat := SEQSPACE) : Response :=
  if seqValid a.toNat S && seqValid b.toNat S then
    respondWith .leafResult (BitVec.ofNat FIELD_W (seqAdd a.toNat b.toNat S))
  else respond .illegal

/-- R77: the circular distance, or `ILLEGAL` when an operand is not a sequence number. -/
def leafSeqSub (a b : Word) (S : Nat := SEQSPACE) : Response :=
  if seqValid a.toNat S && seqValid b.toNat S then
    respondWith .leafResult (BitVec.ofNat FIELD_W (seqSub a.toNat b.toNat S))
  else respond .illegal

/-- `SEQ.ADD` (R76). -/
def execSeqAdd (a b : Word) (s : State) : Host.Outcome State Fault Refusal := .next (conclude s [] (leafSeqAdd a b))

/-- `SEQ.SUB` (R77). -/
def execSeqSub (a b : Word) (s : State) : Host.Outcome State Fault Refusal := .next (conclude s [] (leafSeqSub a b))

/-- `SEQ.INRANGE` (R78): 1 in range, 0 not; an operand outside `[0, S)` gives 0 and raises nothing. -/
def execSeqInrange (first last x : Word) (s : State) : Host.Outcome State Fault Refusal :=
  .next (concludeLeaf s (if seqInrange first.toNat last.toNat x.toNat then 1 else 0))

end Sys2Proof.Machine
end

