-- ==== Sys2Proof/Machine/Sender.lean ====
section
/-! DEFINITION. U2 `ARQ_sender_window_fsm` (42_sender_window_fsm.md R83 to R102): `SND.INIT`, `SND.SUBMIT`, `SND.PKT`,
`SND.TIMEOUT`. -/

namespace Sys2Proof.Machine

open Config

variable {W idxW cntW seqW P : Nat}

/-! ## SND.INIT -/

/-- R83: the reset values, with a `TIMER_STOP` if the timer is armed. -/
def sndInit (s : SenderStateOf W idxW cntW seqW P) :
    ReactionOf P (SenderStateOf W idxW cntW seqW P) where
  state :=
    { windowfirst := 0
      windowlast := BitVec.ofNat idxW (W - 1)
      windowcount := 0
      ackcount := 0
      nextseqnum := 0
      timer_armed := false
      snd_win := Vector.replicate W ⟨zeroPacket, false⟩ }
  outputs := if s.timer_armed then [.timerStop] else []
  response := respond .initDone

/-! ## SND.SUBMIT -/

/-- R84: window full; the message is dropped and no state changes. -/
def sndReject (s : SenderStateOf W idxW cntW seqW P) :
    ReactionOf P (SenderStateOf W idxW cntW seqW P) := ⟨s, [.evt .windowFull], respond .submitWindowFull⟩

/-- R85: the packet is built, inserted after `windowlast`, sent, and the timer armed if it is the only one outstanding. -/
def sndAccept [NeZero W] (msg : BitVec (8 * P)) (s : SenderStateOf W idxW cntW seqW P) (S : Nat := SEQSPACE)
    (notInUse : Word := NOTINUSE) (ext : ByteExt := BYTE_EXT) : ReactionOf P (SenderStateOf W idxW cntW seqW P) :=
  let p := dataPacket s.nextseqnum msg notInUse ext
  let last := nextIndex s.windowlast W
  let count := s.windowcount + 1
  let only := count == 1
  { state :=
      { s with
        windowlast := last
        snd_win := memWrite s.snd_win last.toNat ⟨p, false⟩
        windowcount := count
        timer_armed := if only then true else s.timer_armed
        nextseqnum := nextSeq s.nextseqnum S }
    outputs := .tx p :: (if only then [.timerStart] else [])
    response := respond .submitAccepted }

/-- The admission test on the exact sum `windowcount + ackcount` selects R84 or R85. -/
def sndSubmit [NeZero W] (msg : BitVec (8 * P)) (s : SenderStateOf W idxW cntW seqW P) (S : Nat := SEQSPACE)
    (notInUse : Word := NOTINUSE) (ext : ByteExt := BYTE_EXT) : ReactionOf P (SenderStateOf W idxW cntW seqW P) :=
  if liveCount s < W then sndAccept msg s S notInUse ext else sndReject s

/-! ## SND.PKT -/

/-- `seqfirst = snd_win[windowfirst].pkt.seqnum` (R89). -/
def seqFirst [NeZero W] (s : SenderStateOf W idxW cntW seqW P) : Word := (memRead s.snd_win s.windowfirst.toNat).pkt.seqnum

/-- `seqlast = snd_win[windowlast].pkt.seqnum` (R89). -/
def seqLast [NeZero W] (s : SenderStateOf W idxW cntW seqW P) : Word := (memRead s.snd_win s.windowlast.toNat).pkt.seqnum

/-- The targeted slot: `k = seq_sub(acknum, seqfirst)`, index `(windowfirst + k) mod W` (20_memory.md R32, R90). -/
def ackTarget [NeZero W] (s : SenderStateOf W idxW cntW seqW P) (acknum : Word) (S : Nat := SEQSPACE) : Nat :=
  windowIndex s (seqSub acknum.toNat (seqFirst s).toNat S)

/-- R88, R89, R90, R91: a duplicate raises `ACK_RX` and changes nothing. -/
def duplicateAck (s : SenderStateOf W idxW cntW seqW P) :
    ReactionOf P (SenderStateOf W idxW cntW seqW P) := ⟨s, [.evt .ackRx], respond .ackDuplicate⟩

/-- R92: the targeted slot is marked and the counts move by one. -/
def markAcked [NeZero W] (i : Nat) (s : SenderStateOf W idxW cntW seqW P) : SenderStateOf W idxW cntW seqW P :=
  { s with snd_win := setAcked s.snd_win i, ackcount := s.ackcount + 1, windowcount := s.windowcount - 1 }

/-- R93: the slide loop. Its first argument is `ackcount` read as a number, which each pass lowers by one, so the loop's
bound `ackcount > 0` is the argument being positive (assumption log 10). -/
def slide [NeZero W] : Nat → SenderStateOf W idxW cntW seqW P → SenderStateOf W idxW cntW seqW P
  | 0, s => s
  | n + 1, s =>
    if isAcked s.snd_win s.windowfirst.toNat then
      slide n { s with windowfirst := nextIndex s.windowfirst W, ackcount := s.ackcount - 1 }
    else s

/-- R93: only an acknowledgment of the first slot slides. -/
def slideIfFirst [NeZero W] (isFirst : Bool) (s : SenderStateOf W idxW cntW seqW P) : SenderStateOf W idxW cntW seqW P :=
  if isFirst then slide s.ackcount.toNat s else s

/-- R92, R93, R94 for a new acknowledgment: mark, slide, restart the timer (stop before start). -/
def acceptAck [NeZero W] (acknum : Word) (s : SenderStateOf W idxW cntW seqW P) (S : Nat := SEQSPACE) :
    ReactionOf P (SenderStateOf W idxW cntW seqW P) :=
  let isFirst := acknum == seqFirst s
  let moved := slideIfFirst isFirst (markAcked (ackTarget s acknum S) s)
  let outstanding := decide (1 ≤ moved.windowcount.toNat)
  { state := { moved with timer_armed := outstanding }
    outputs := [.evt .ackRx, .evt .newAck, .timerStop] ++ (if outstanding then [.timerStart] else [])
    response := respond (if isFirst then .ackNewSlide else .ackNew) }

/-- R86: the tests in their order. -/
def sndPkt [NeZero W] (pkt : PacketOf P) (s : SenderStateOf W idxW cntW seqW P) (S : Nat := SEQSPACE)
    (ext : ByteExt := BYTE_EXT) : ReactionOf P (SenderStateOf W idxW cntW seqW P) :=
  if corrupted pkt ext then ⟨s, [], respond .ackCorrupt⟩
  else if liveCount s = 0 then duplicateAck s
  else if !seqInrange (seqFirst s).toNat (seqLast s).toNat pkt.acknum.toNat S then duplicateAck s
  else if isAcked s.snd_win (ackTarget s pkt.acknum S) then duplicateAck s
  else acceptAck pkt.acknum s S

/-! ## SND.TIMEOUT -/

/-- R95: the first live slot not acknowledged, oldest first. -/
def oldestUnacked [NeZero W] (s : SenderStateOf W idxW cntW seqW P) : Option Nat :=
  (liveIndices s).find? fun i => !isAcked s.snd_win i

/-- R96, then R95, which falls through to R97. -/
def sndTimeout [NeZero W] (s : SenderStateOf W idxW cntW seqW P) :
    ReactionOf P (SenderStateOf W idxW cntW seqW P) :=
  if !s.timer_armed then ⟨s, [], respond .timeoutSpurious⟩
  else
    match oldestUnacked s with
    | some i =>
      ⟨{ s with timer_armed := true }, [.tx (memRead s.snd_win i).pkt, .evt .retransmit, .timerStart],
        respond .timeoutRetransmit⟩
    | none => ⟨{ s with timer_armed := false }, [], respond .timeoutNothing⟩

/-! ## The commands -/

/-- `SND.INIT` (R83). -/
def execSndInit (s : State) : Host.Outcome State Fault Refusal := .next (concludeSender s (sndInit s.sender))

/-- `SND.SUBMIT` (R84, R85). -/
def execSndSubmit (msg : Message) (s : State) : Host.Outcome State Fault Refusal :=
  .next (concludeSender s (sndSubmit msg s.sender))

/-- `SND.PKT` (R86 to R94). -/
def execSndPkt (pkt : Packet) (s : State) : Host.Outcome State Fault Refusal :=
  .next (concludeSender s (sndPkt pkt s.sender))

/-- `SND.TIMEOUT` (R95 to R97). -/
def execSndTimeout (s : State) : Host.Outcome State Fault Refusal := .next (concludeSender s (sndTimeout s.sender))

end Sys2Proof.Machine
end

