-- ==== Sys2Proof/Machine/Receiver.lean ====
section
/-! DEFINITION. U3 `ARQ_receiver_reorder_fsm` (43_receiver_reorder_fsm.md R105 to R118): `RCV.INIT` and `RCV.PKT`. -/

namespace Sys2Proof.Machine

open Config

variable {W idxW seqW P : Nat}

/-- R105: the reset values, the buffer included. -/
def rcvInit (_r : ReceiverStateOf W idxW seqW P) (notInUse : Word := NOTINUSE) :
    ReactionOf P (ReceiverStateOf W idxW seqW P) where
  state :=
    { expectedseqnum := 0
      rcv_base := 0
      b_nextseqnum := 1
      rcv_buf := Vector.replicate W (emptyRcvSlot notInUse) }
  outputs := []
  response := respond .initDone

/-- R109: `seqnum` lies in `[expectedseqnum, expectedseqnum + W - 1] mod S`. -/
def acceptable (r : ReceiverStateOf W idxW seqW P) (seqnum : Word) (S : Nat := SEQSPACE) : Bool :=
  seqInrange r.expectedseqnum.toNat (seqAdd r.expectedseqnum.toNat (W - 1) S) seqnum.toNat S

/-- R108: the acknowledgment of a packet carries the counter and echoes the raw `seqnum`. -/
def ackFor (pkt : PacketOf P) (r : ReceiverStateOf W idxW seqW P) (filler : Byte := FILLER)
    (ext : ByteExt := BYTE_EXT) : PacketOf P := ackPacket r.b_nextseqnum pkt.seqnum P filler ext

/-- R108: the counter is used, then incremented. -/
def countAck (r : ReceiverStateOf W idxW seqW P) (S : Nat := SEQSPACE) : ReceiverStateOf W idxW seqW P :=
  { r with b_nextseqnum := nextSeq r.b_nextseqnum S }

/-- R111: the whole packet is stored at `seqnum mod W`. -/
def storePacket [NeZero W] (pkt : PacketOf P) (r : ReceiverStateOf W idxW seqW P) : ReceiverStateOf W idxW seqW P :=
  { r with rcv_buf := memWrite r.rcv_buf (pkt.seqnum.toNat % W) pkt }

/-- R112: the packet at the buffer base. -/
def basePacket [NeZero W] (r : ReceiverStateOf W idxW seqW P) : PacketOf P := memRead r.rcv_buf r.rcv_base.toNat

/-- R112: the base and `expectedseqnum` advance by one. -/
def advanceBase (r : ReceiverStateOf W idxW seqW P) (S : Nat := SEQSPACE) : ReceiverStateOf W idxW seqW P :=
  { r with rcv_base := nextIndex r.rcv_base W, expectedseqnum := nextSeq r.expectedseqnum S }

/-- R112: the delivery loop, at most as many passes as its first argument; it answers the state after it and the messages
delivered, oldest first. -/
def deliverRun [NeZero W] (n : Nat) (r : ReceiverStateOf W idxW seqW P) (S : Nat := SEQSPACE) :
    ReceiverStateOf W idxW seqW P × List (BitVec (8 * P)) :=
  match n with
  | 0 => (r, [])
  | n + 1 =>
    if (basePacket r).seqnum = zextSeq r.expectedseqnum then
      let rest := deliverRun n (advanceBase r S) S
      (rest.1, (basePacket r).payload :: rest.2)
    else (r, [])

/-- R106: the steps in their order. -/
def rcvPkt [NeZero W] (pkt : PacketOf P) (r : ReceiverStateOf W idxW seqW P) (S : Nat := SEQSPACE)
    (filler : Byte := FILLER) (ext : ByteExt := BYTE_EXT) : ReactionOf P (ReceiverStateOf W idxW seqW P) :=
  if corrupted pkt ext then ⟨r, [], respond .dataCorrupt⟩
  else
    let acknowledged : List (OutputOf P) := [.evt .dataRx, .tx (ackFor pkt r filler ext)]
    let counted := countAck r S
    if !acceptable r pkt.seqnum S then ⟨counted, acknowledged, respond .dataOutOfRange⟩
    else
      let stored := storePacket pkt counted
      if pkt.seqnum = zextSeq r.expectedseqnum then
        let run := deliverRun W stored S
        ⟨run.1, acknowledged ++ run.2.map .deliver,
          respondWith .dataDelivered (BitVec.ofNat FIELD_W run.2.length)⟩
      else ⟨stored, acknowledged, respond .dataBuffered⟩

/-- `RCV.INIT` (R105). -/
def execRcvInit (s : State) : Host.Outcome State Fault Refusal := .next (concludeReceiver s (rcvInit s.receiver))

/-- `RCV.PKT` (R106 to R113). -/
def execRcvPkt (pkt : Packet) (s : State) : Host.Outcome State Fault Refusal :=
  .next (concludeReceiver s (rcvPkt pkt s.receiver))

end Sys2Proof.Machine
end

