-- ==== Sys2Proof/Machine/Dispatch.lean ====
section
/-! DEFINITION. One arm per command of the opcode table (30_encoding.md R47). -/

namespace Sys2Proof.Machine

def exec (i : Instr) (s : State) : Host.Outcome State Fault Refusal :=
  match i with
  | .chkCompute seqnum acknum payload => Sys2Proof.Machine.execChkCompute seqnum acknum payload s
  | .chkVerify pkt => Sys2Proof.Machine.execChkVerify pkt s
  | .seqAdd a b => Sys2Proof.Machine.execSeqAdd a b s
  | .seqSub a b => Sys2Proof.Machine.execSeqSub a b s
  | .seqInrange first last x => Sys2Proof.Machine.execSeqInrange first last x s
  | .sndInit => Sys2Proof.Machine.execSndInit s
  | .sndSubmit msg => Sys2Proof.Machine.execSndSubmit msg s
  | .sndPkt pkt => Sys2Proof.Machine.execSndPkt pkt s
  | .sndTimeout => Sys2Proof.Machine.execSndTimeout s
  | .rcvInit => Sys2Proof.Machine.execRcvInit s
  | .rcvPkt pkt => Sys2Proof.Machine.execRcvPkt pkt s

end Sys2Proof.Machine
end

