-- ==== Sys2Proof/Machine/Step.lean ====
section
/-! DEFINITION. One step: the block takes one input and runs it to completion as one atomic transition (20_memory.md R39,
R41; 00_scope.md section 5). -/

namespace Sys2Proof.Machine

/-- One step. With nothing presented the block is idle; a reset resets it; a command word is decoded and run, and a
reserved opcode raises `ILLEGAL` (30_encoding.md R50, 60_exceptions.md R127). -/
def step (s : State) : Host.Outcome State Fault Refusal :=
  match takeInput s with
  | none => .next (idle s)
  | some (.reset, taken) => .next (takeReset taken)
  | some (.command word, taken) =>
    match decode word with
    | .ok i => exec i taken
    | .error _ => .next (raiseIllegal taken)

/-- The command with these bits is what the environment presents next (assumption log 5 and 6). -/
def State.withFetchWord (s : State) (nbits w : Nat) : State := present s (tableCommandWord nbits w)

end Sys2Proof.Machine
end

