-- ==== Sys2Proof/Laws/State.lean ====
section
/-! SUPPORT. The small lemmas of the state updates: one per field per update, true by `rfl`, so that no proof unfolds a
record update. -/

namespace Sys2Proof.Machine

/-! ## conclude -/

@[simp] theorem conclude_sender (s : State) (o : List Output) (r : Response) : (conclude s o r).sender = s.sender := rfl
@[simp] theorem conclude_receiver (s : State) (o : List Output) (r : Response) :
    (conclude s o r).receiver = s.receiver := rfl
@[simp] theorem conclude_inputs (s : State) (o : List Output) (r : Response) : (conclude s o r).inputs = s.inputs := rfl
@[simp] theorem conclude_outputs (s : State) (o : List Output) (r : Response) : (conclude s o r).outputs = o := rfl
@[simp] theorem conclude_response (s : State) (o : List Output) (r : Response) : (conclude s o r).response = some r := rfl

/-! ## concludeSender -/

@[simp] theorem concludeSender_sender (s : State) (x : Reaction SenderState) : (concludeSender s x).sender = x.state := rfl
@[simp] theorem concludeSender_receiver (s : State) (x : Reaction SenderState) :
    (concludeSender s x).receiver = s.receiver := rfl
@[simp] theorem concludeSender_inputs (s : State) (x : Reaction SenderState) : (concludeSender s x).inputs = s.inputs := rfl
@[simp] theorem concludeSender_outputs (s : State) (x : Reaction SenderState) :
    (concludeSender s x).outputs = x.outputs := rfl
@[simp] theorem concludeSender_response (s : State) (x : Reaction SenderState) :
    (concludeSender s x).response = some x.response := rfl

/-! ## concludeReceiver -/

@[simp] theorem concludeReceiver_sender (s : State) (x : Reaction ReceiverState) :
    (concludeReceiver s x).sender = s.sender := rfl
@[simp] theorem concludeReceiver_receiver (s : State) (x : Reaction ReceiverState) :
    (concludeReceiver s x).receiver = x.state := rfl
@[simp] theorem concludeReceiver_inputs (s : State) (x : Reaction ReceiverState) :
    (concludeReceiver s x).inputs = s.inputs := rfl
@[simp] theorem concludeReceiver_outputs (s : State) (x : Reaction ReceiverState) :
    (concludeReceiver s x).outputs = x.outputs := rfl
@[simp] theorem concludeReceiver_response (s : State) (x : Reaction ReceiverState) :
    (concludeReceiver s x).response = some x.response := rfl

/-! ## concludeLeaf and raiseIllegal -/

@[simp] theorem concludeLeaf_sender (s : State) (v : Word) : (concludeLeaf s v).sender = s.sender := rfl
@[simp] theorem concludeLeaf_receiver (s : State) (v : Word) : (concludeLeaf s v).receiver = s.receiver := rfl
@[simp] theorem concludeLeaf_inputs (s : State) (v : Word) : (concludeLeaf s v).inputs = s.inputs := rfl
@[simp] theorem concludeLeaf_outputs (s : State) (v : Word) : (concludeLeaf s v).outputs = [] := rfl
@[simp] theorem concludeLeaf_response (s : State) (v : Word) : (concludeLeaf s v).response = some ⟨.leafResult, v⟩ := rfl

@[simp] theorem raiseIllegal_sender (s : State) : (raiseIllegal s).sender = s.sender := rfl
@[simp] theorem raiseIllegal_receiver (s : State) : (raiseIllegal s).receiver = s.receiver := rfl
@[simp] theorem raiseIllegal_inputs (s : State) : (raiseIllegal s).inputs = s.inputs := rfl
@[simp] theorem raiseIllegal_outputs (s : State) : (raiseIllegal s).outputs = [] := rfl
@[simp] theorem raiseIllegal_response (s : State) : (raiseIllegal s).response = some ⟨.illegal, 0⟩ := rfl

/-! ## takeReset and present -/

@[simp] theorem takeReset_sender (s : State) : (takeReset s).sender = State.reset.sender := rfl
@[simp] theorem takeReset_receiver (s : State) : (takeReset s).receiver = State.reset.receiver := rfl
@[simp] theorem takeReset_inputs (s : State) : (takeReset s).inputs = s.inputs := rfl
@[simp] theorem takeReset_outputs (s : State) : (takeReset s).outputs = [] := rfl
@[simp] theorem takeReset_response (s : State) : (takeReset s).response = none := rfl

@[simp] theorem present_sender (s : State) (w : CmdWord) : (present s w).sender = s.sender := rfl
@[simp] theorem present_receiver (s : State) (w : CmdWord) : (present s w).receiver = s.receiver := rfl
@[simp] theorem present_inputs (s : State) (w : CmdWord) : (present s w).inputs = .command w :: s.inputs := rfl
@[simp] theorem present_outputs (s : State) (w : CmdWord) : (present s w).outputs = s.outputs := rfl
@[simp] theorem present_response (s : State) (w : CmdWord) : (present s w).response = s.response := rfl

/-! ## Updates of the engines' records -/

@[simp] theorem markAcked_windowfirst (i : Nat) (s : SenderState) : (markAcked i s).windowfirst = s.windowfirst := rfl
@[simp] theorem markAcked_windowlast (i : Nat) (s : SenderState) : (markAcked i s).windowlast = s.windowlast := rfl
@[simp] theorem markAcked_windowcount (i : Nat) (s : SenderState) : (markAcked i s).windowcount = s.windowcount - 1 := rfl
@[simp] theorem markAcked_ackcount (i : Nat) (s : SenderState) : (markAcked i s).ackcount = s.ackcount + 1 := rfl
@[simp] theorem markAcked_nextseqnum (i : Nat) (s : SenderState) : (markAcked i s).nextseqnum = s.nextseqnum := rfl
@[simp] theorem markAcked_timer_armed (i : Nat) (s : SenderState) : (markAcked i s).timer_armed = s.timer_armed := rfl
@[simp] theorem markAcked_snd_win (i : Nat) (s : SenderState) : (markAcked i s).snd_win = setAcked s.snd_win i := rfl

@[simp] theorem countAck_expectedseqnum (r : ReceiverState) : (countAck r).expectedseqnum = r.expectedseqnum := rfl
@[simp] theorem countAck_rcv_base (r : ReceiverState) : (countAck r).rcv_base = r.rcv_base := rfl
@[simp] theorem countAck_b_nextseqnum (r : ReceiverState) : (countAck r).b_nextseqnum = nextSeq r.b_nextseqnum := rfl
@[simp] theorem countAck_rcv_buf (r : ReceiverState) : (countAck r).rcv_buf = r.rcv_buf := rfl

@[simp] theorem storePacket_expectedseqnum (p : Packet) (r : ReceiverState) :
    (storePacket p r).expectedseqnum = r.expectedseqnum := rfl
@[simp] theorem storePacket_rcv_base (p : Packet) (r : ReceiverState) : (storePacket p r).rcv_base = r.rcv_base := rfl
@[simp] theorem storePacket_b_nextseqnum (p : Packet) (r : ReceiverState) :
    (storePacket p r).b_nextseqnum = r.b_nextseqnum := rfl
@[simp] theorem storePacket_rcv_buf (p : Packet) (r : ReceiverState) :
    (storePacket p r).rcv_buf = memWrite r.rcv_buf (p.seqnum.toNat % Config.WINDOWSIZE) p := rfl

@[simp] theorem advanceBase_expectedseqnum (r : ReceiverState) :
    (advanceBase r).expectedseqnum = nextSeq r.expectedseqnum := rfl
@[simp] theorem advanceBase_rcv_base (r : ReceiverState) : (advanceBase r).rcv_base = nextIndex r.rcv_base := rfl
@[simp] theorem advanceBase_b_nextseqnum (r : ReceiverState) : (advanceBase r).b_nextseqnum = r.b_nextseqnum := rfl
@[simp] theorem advanceBase_rcv_buf (r : ReceiverState) : (advanceBase r).rcv_buf = r.rcv_buf := rfl

end Sys2Proof.Machine
end

