-- ==== Sys2Proof/Laws/Memory.lean ====
section
/-! SUPPORT. What the slot memory operations and the flag operations can do, said once (20_memory.md R31 to R39,
10_state.md R26). -/

namespace Sys2Proof.Machine

open Config

/-- A read looks only at the index modulo `W`. -/
theorem memRead_mod {α : Type} {W : Nat} [NeZero W] (m : Vector α W) (i : Nat) : memRead m (i % W) = memRead m i := by
  simp [memRead]

/-- A write looks only at the index modulo `W`. -/
theorem memWrite_mod {α : Type} {W : Nat} [NeZero W] (m : Vector α W) (i : Nat) (v : α) :
    memWrite m (i % W) v = memWrite m i v := by
  simp [memWrite]

/-- A write, read at any index. -/
theorem memRead_memWrite {α : Type} {W : Nat} [NeZero W] (m : Vector α W) (i j : Nat) (v : α) :
    memRead (memWrite m i v) j = if i % W = j % W then v else memRead m j := by
  simp [memRead, memWrite, Vector.getElem_set]

/-- A read after a write to the same slot gives the value written. -/
@[simp] theorem memRead_memWrite_same {α : Type} {W : Nat} [NeZero W] (m : Vector α W) (i : Nat) (v : α) :
    memRead (memWrite m i v) i = v := by simp [memRead_memWrite]

/-- A write leaves every other slot alone. -/
theorem memRead_memWrite_other {α : Type} {W : Nat} [NeZero W] (m : Vector α W) (i j : Nat) (v : α)
    (h : i % W ≠ j % W) : memRead (memWrite m i v) j = memRead m j := by
  simp [memRead_memWrite, h]

/-- Every slot of a filled memory holds the fill. -/
@[simp] theorem memRead_replicate {α : Type} {W : Nat} [NeZero W] (v : α) (i : Nat) : memRead (Vector.replicate W v) i = v := by
  simp [memRead]

/-- Two memories that read alike at every index are equal. -/
theorem memory_ext {α : Type} {W : Nat} [NeZero W] (m n : Vector α W) (h : ∀ i < W, memRead m i = memRead n i) : m = n := by
  ext i hi
  have := h i hi
  simpa [memRead, Nat.mod_eq_of_lt hi] using this

/-- Every slot memory has the fixed size. -/
theorem memory_wf {α : Type} {W : Nat} [NeZero W] (m : Vector α W) : Memory.wf m := by simp [Memory.wf]

/-- A write keeps the fixed size. -/
theorem memWrite_wf {α : Type} {W : Nat} [NeZero W] (m : Vector α W) (i : Nat) (v : α) (_h : Memory.wf m) :
    Memory.wf (memWrite m i v) := memory_wf _

/-- Marking keeps the fixed size. -/
theorem setAcked_wf {W P : Nat} [NeZero W] (m : Vector (SlotOf P) W) (i : Nat) (_h : Memory.wf m) : Memory.wf (setAcked m i) := memory_wf _

/-- The reset memories have the fixed size. -/
theorem reset_memory_wf : Memory.wf State.reset.sender.snd_win ∧ Memory.wf State.reset.receiver.rcv_buf :=
  ⟨memory_wf _, memory_wf _⟩

/-- Marking one slot, read at any index. -/
theorem memRead_setAcked {W P : Nat} [NeZero W] (m : Vector (SlotOf P) W) (i j : Nat) :
    memRead (setAcked m i) j =
      if i % W = j % W then ⟨(memRead m j).pkt, true⟩ else memRead m j := by
  unfold setAcked
  rw [memRead_memWrite]
  split
  · next h => rw [← memRead_mod m i, h, memRead_mod]
  · rfl

/-- Marking a slot leaves every stored packet as it was (decision D37). -/
@[simp] theorem memRead_setAcked_pkt {W P : Nat} [NeZero W] (m : Vector (SlotOf P) W) (i j : Nat) :
    (memRead (setAcked m i) j).pkt = (memRead m j).pkt := by
  rw [memRead_setAcked]; split <;> rfl

/-- The flags after marking one slot. -/
theorem isAcked_setAcked {W P : Nat} [NeZero W] (m : Vector (SlotOf P) W) (i j : Nat) :
    isAcked (setAcked m i) j = if i % W = j % W then true else isAcked m j := by
  unfold isAcked
  rw [memRead_setAcked]; split <;> rfl

/-- A flag is read at the index modulo `W`. -/
theorem isAcked_mod {W P : Nat} [NeZero W] (m : Vector (SlotOf P) W) (i : Nat) : isAcked m (i % W) = isAcked m i := by
  unfold isAcked; rw [memRead_mod]

end Sys2Proof.Machine
end

