-- ==== Sys2Proof/Laws/Arithmetic.lean ====
section
/-! SUPPORT. The parameters and widths of this hardware against the formulas of 00_scope.md R11 and
70_reset_and_hazards.md R145, and what index and sequence arithmetic answer as numbers. -/

namespace Sys2Proof.Machine

open Config

/-- This hardware's parameters are those of an ARQ block (R145). -/
theorem params_wellFormed : params.wellFormed = true := by decide

/-- `IDX_W`, `CNT_W` and `SEQ_W` are the rounded-up logarithms of R11. -/
theorem derived_widths :
    IDX_W = Nat.clog 2 WINDOWSIZE ∧ CNT_W = Nat.clog 2 (WINDOWSIZE + 1) ∧ SEQ_W = Nat.clog 2 SEQSPACE := by
  decide

/-- The default widths R11 prints: 256, 260. -/
theorem packet_and_command_widths : PKT_W = 256 ∧ CMD_W = 260 ∧ SLOT_W = 257 := ⟨rfl, rfl, rfl⟩

/-- An index register after one advance, as a number. -/
@[simp] theorem nextIndex_toNat (i : BitVec IDX_W) : (nextIndex i).toNat = (i.toNat + 1) % WINDOWSIZE := by
  have h : (i.toNat + 1) % WINDOWSIZE < WINDOWSIZE := Nat.mod_lt _ (by decide)
  simp only [nextIndex, BitVec.toNat_ofNat]
  exact Nat.mod_eq_of_lt (lt_of_lt_of_le h (by decide))

/-- A sequence register after one advance, as a number. -/
@[simp] theorem nextSeq_toNat (r : BitVec SEQ_W) : (nextSeq r).toNat = (r.toNat + 1) % SEQSPACE := by
  have h : (r.toNat + 1) % SEQSPACE < SEQSPACE := Nat.mod_lt _ (by decide)
  simp only [nextSeq, seqAdd, BitVec.toNat_ofNat]
  exact Nat.mod_eq_of_lt (lt_of_lt_of_le h (by decide))

/-- A sequence register widened to a packet field keeps its value. -/
@[simp] theorem zextSeq_toNat (r : BitVec SEQ_W) : (zextSeq r).toNat = r.toNat := by
  simp only [zextSeq, BitVec.toNat_setWidth]
  exact Nat.mod_eq_of_lt (lt_of_lt_of_le r.isLt (by decide))

/-- `NOTINUSE` is no sequence number (00_scope.md R8). -/
theorem notInUse_not_valid : seqValid NOTINUSE.toNat = false := by decide

/-- A sum modulo `S` is a sequence number. -/
theorem seqAdd_lt (x y : Nat) : seqAdd x y < SEQSPACE := Nat.mod_lt _ (by decide)

/-- The distance from `y` forward to `x`, for sequence numbers, by one conditional addition (R82 f). -/
theorem seqSub_eq (x y : Nat) (hx : x < SEQSPACE) (hy : y < SEQSPACE) :
    seqSub x y = if y ≤ x then x - y else x + SEQSPACE - y := by
  simp only [seqSub, SEQSPACE, WINDOWSIZE] at *
  split <;> omega

/-- A distance is a sequence number. -/
theorem seqSub_lt (x y : Nat) : seqSub x y < SEQSPACE := by
  simp only [seqSub, SEQSPACE, WINDOWSIZE]
  omega

/-- The indices of live slots stay in the array. -/
theorem windowIndex_lt (s : SenderState) (k : Nat) : windowIndex s k < WINDOWSIZE := Nat.mod_lt _ (by decide)

end Sys2Proof.Machine
end

