-- ==== Sys2Proof/Laws/Engines.lean ====
section
/-! SUPPORT. What each shared operation of the engines can do, said once: the slide loop, the timeout scan, the delivery
loop, and the branches of the four state-changing commands. -/

namespace Sys2Proof.Machine

open Config

/-! ## The slide loop (42_sender_window_fsm.md R93) -/

/-- One pass over an acknowledged slot at the window's front. -/
def slidePass (s : SenderState) : SenderState :=
  { s with windowfirst := nextIndex s.windowfirst, ackcount := s.ackcount - 1 }

@[simp] theorem slidePass_windowfirst (s : SenderState) : (slidePass s).windowfirst = nextIndex s.windowfirst := rfl
@[simp] theorem slidePass_ackcount (s : SenderState) : (slidePass s).ackcount = s.ackcount - 1 := rfl
@[simp] theorem slidePass_snd_win (s : SenderState) : (slidePass s).snd_win = s.snd_win := rfl

/-- The slide loop is a number of passes, no more than its bound; it stops at its bound or at a slot not acknowledged, and
every slot it passes is acknowledged. -/
theorem slide_spec (n : Nat) (s : SenderState) :
    ∃ m ≤ n, slide n s = slidePass^[m] s
      ∧ (∀ j < m, isAcked s.snd_win (slidePass^[j] s).windowfirst.toNat = true)
      ∧ (m < n → isAcked s.snd_win (slidePass^[m] s).windowfirst.toNat = false) := by
  induction n generalizing s with
  | zero => exact ⟨0, le_rfl, rfl, by simp, by simp⟩
  | succ n ih =>
    by_cases h : isAcked s.snd_win s.windowfirst.toNat = true
    · obtain ⟨m, hm, hs, hall, hstop⟩ := ih (slidePass s)
      refine ⟨m + 1, by omega, ?_, ?_, ?_⟩
      · simpa [slide, h, slidePass] using hs
      · intro j hj
        cases j with
        | zero => simpa using h
        | succ j => simpa using hall j (by omega)
      · intro hlt; simpa using hstop (by omega)
    · exact ⟨0, by omega, by simp [slide, h], by simp, fun _ => by simpa using h⟩

/-- Passes move `windowfirst` forward and lower `ackcount`. -/
theorem slidePass_iterate_windowfirst (m : Nat) (s : SenderState) (h : s.windowfirst.toNat < WINDOWSIZE) :
    (slidePass^[m] s).windowfirst.toNat = (s.windowfirst.toNat + m) % WINDOWSIZE := by
  induction m with
  | zero => simp [Nat.mod_eq_of_lt h]
  | succ m ih =>
    rw [Function.iterate_succ_apply']
    simp only [slidePass_windowfirst, nextIndex_toNat, ih, WINDOWSIZE]
    omega

/-- The slide touches `windowfirst` and `ackcount` only. -/
theorem slide_frame (n : Nat) (s : SenderState) :
    (slide n s).windowlast = s.windowlast ∧ (slide n s).windowcount = s.windowcount
      ∧ (slide n s).nextseqnum = s.nextseqnum ∧ (slide n s).timer_armed = s.timer_armed
      ∧ (slide n s).snd_win = s.snd_win := by
  induction n generalizing s with
  | zero => exact ⟨rfl, rfl, rfl, rfl, rfl⟩
  | succ n ih =>
    unfold slide
    split
    · exact ih _
    · exact ⟨rfl, rfl, rfl, rfl, rfl⟩

/-- The slide of an acknowledgment touches `windowfirst` and `ackcount` only. -/
theorem slideIfFirst_frame (b : Bool) (s : SenderState) :
    (slideIfFirst b s).windowlast = s.windowlast ∧ (slideIfFirst b s).windowcount = s.windowcount
      ∧ (slideIfFirst b s).nextseqnum = s.nextseqnum ∧ (slideIfFirst b s).timer_armed = s.timer_armed
      ∧ (slideIfFirst b s).snd_win = s.snd_win := by
  cases b
  · exact ⟨rfl, rfl, rfl, rfl, rfl⟩
  · exact slide_frame _ _

/-! ## The timeout scan (42_sender_window_fsm.md R95) -/

/-- The scan finds the first live slot not acknowledged, or finds every live slot acknowledged. -/
theorem oldestUnacked_spec (s : SenderState) :
    (∃ k < liveCount s, oldestUnacked s = some (windowIndex s k) ∧ isAcked s.snd_win (windowIndex s k) = false
        ∧ ∀ j < k, isAcked s.snd_win (windowIndex s j) = true)
      ∨ (oldestUnacked s = none ∧ ∀ k < liveCount s, isAcked s.snd_win (windowIndex s k) = true) := by
  cases h : oldestUnacked s with
  | none =>
    right
    refine ⟨rfl, fun k hk => ?_⟩
    simp only [oldestUnacked, List.find?_eq_none] at h
    have := h (windowIndex s k) (List.mem_map_of_mem (List.mem_range.2 hk))
    simpa using this
  | some i =>
    left
    simp only [oldestUnacked, liveIndices, List.find?_map, Option.map_eq_some_iff] at h
    obtain ⟨k, hk, rfl⟩ := h
    obtain ⟨hp, hlt, hmin⟩ := List.find?_range_eq_some.1 hk
    exact ⟨k, by simpa using hlt, rfl, by simpa using hp, fun j hj => by simpa using hmin j hj⟩

/-! ## The delivery loop (43_receiver_reorder_fsm.md R112) -/

/-- The delivery loop is a number of advances of the base, no more than its bound; it delivers the packet at the base
before each, and stops at its bound or at a slot that does not hold the expected number. -/
theorem deliverRun_spec (n : Nat) (r : ReceiverState) :
    ∃ m ≤ n, (deliverRun n r).1 = advanceBase^[m] r
      ∧ (deliverRun n r).2 = (List.range m).map (fun j => (basePacket (advanceBase^[j] r)).payload)
      ∧ (∀ j < m, (basePacket (advanceBase^[j] r)).seqnum = zextSeq (advanceBase^[j] r).expectedseqnum)
      ∧ (m < n → (basePacket (advanceBase^[m] r)).seqnum ≠ zextSeq (advanceBase^[m] r).expectedseqnum) := by
  induction n generalizing r with
  | zero => exact ⟨0, le_rfl, rfl, rfl, by simp, by simp⟩
  | succ n ih =>
    by_cases h : (basePacket r).seqnum = zextSeq r.expectedseqnum
    · obtain ⟨m, hm, h1, h2, hall, hstop⟩ := ih (advanceBase r)
      refine ⟨m + 1, by omega, ?_, ?_, ?_, ?_⟩
      · simpa [deliverRun, h] using h1
      · simp [deliverRun, h, h2, List.range_succ_eq_map, Function.comp_def]
      · intro j hj
        cases j with
        | zero => simpa using h
        | succ j => simpa using hall j (by omega)
      · intro hlt; simpa using hstop (by omega)
    · exact ⟨0, by omega, by simp [deliverRun, h], by simp [deliverRun, h], by simp, fun _ => by simpa using h⟩

/-- Advances of the base, as numbers; the buffer and the acknowledgment counter stay. -/
theorem advanceBase_iterate (m : Nat) (r : ReceiverState) (hb : r.rcv_base.toNat < WINDOWSIZE)
    (he : r.expectedseqnum.toNat < SEQSPACE) :
    (advanceBase^[m] r).rcv_base.toNat = (r.rcv_base.toNat + m) % WINDOWSIZE
      ∧ (advanceBase^[m] r).expectedseqnum.toNat = (r.expectedseqnum.toNat + m) % SEQSPACE
      ∧ (advanceBase^[m] r).rcv_buf = r.rcv_buf ∧ (advanceBase^[m] r).b_nextseqnum = r.b_nextseqnum := by
  induction m with
  | zero => simp [Nat.mod_eq_of_lt hb, Nat.mod_eq_of_lt he]
  | succ m ih =>
    obtain ⟨h1, h2, h3, h4⟩ := ih
    rw [Function.iterate_succ_apply']
    simp only [advanceBase_rcv_base, advanceBase_expectedseqnum, advanceBase_rcv_buf, advanceBase_b_nextseqnum,
      nextIndex_toNat, nextSeq_toNat, h1, h2, h3, h4, WINDOWSIZE, SEQSPACE, and_true]
    omega

/-! ## The branches of the commands -/

/-- Everything `SND.SUBMIT` can do (R84, R85). -/
theorem sndSubmit_cases (m : Message) (s : SenderState) :
    (liveCount s < WINDOWSIZE ∧ sndSubmit m s = sndAccept m s)
      ∨ (¬ liveCount s < WINDOWSIZE ∧ sndSubmit m s = sndReject s) := by
  unfold sndSubmit
  split
  · next h => exact .inl ⟨h, rfl⟩
  · next h => exact .inr ⟨h, rfl⟩

/-- Everything `SND.PKT` can do (R86). -/
theorem sndPkt_cases (p : Packet) (s : SenderState) :
    (corrupted p = true ∧ sndPkt p s = ⟨s, [], respond .ackCorrupt⟩)
      ∨ (corrupted p = false
          ∧ (liveCount s = 0 ∨ seqInrange (seqFirst s).toNat (seqLast s).toNat p.acknum.toNat = false
            ∨ isAcked s.snd_win (ackTarget s p.acknum) = true)
          ∧ sndPkt p s = duplicateAck s)
      ∨ (corrupted p = false ∧ liveCount s ≠ 0
          ∧ seqInrange (seqFirst s).toNat (seqLast s).toNat p.acknum.toNat = true
          ∧ isAcked s.snd_win (ackTarget s p.acknum) = false ∧ sndPkt p s = acceptAck p.acknum s) := by
  unfold sndPkt
  split
  · next h => exact .inl ⟨h, rfl⟩
  · next h =>
    right
    have hc : corrupted p = false := by simpa using h
    split
    · next h0 => exact .inl ⟨hc, .inl h0, rfl⟩
    · next h0 =>
      split
      · next h1 => exact .inl ⟨hc, .inr (.inl (by simpa using h1)), rfl⟩
      · next h1 =>
        split
        · next h2 => exact .inl ⟨hc, .inr (.inr h2), rfl⟩
        · next h2 => exact .inr ⟨hc, h0, by simpa using h1, by simpa using h2, rfl⟩

/-- Everything `SND.TIMEOUT` can do (R95, R96, R97). -/
theorem sndTimeout_cases (s : SenderState) :
    (s.timer_armed = false ∧ sndTimeout s = ⟨s, [], respond .timeoutSpurious⟩)
      ∨ (s.timer_armed = true ∧ ∃ k < liveCount s, isAcked s.snd_win (windowIndex s k) = false
          ∧ (∀ j < k, isAcked s.snd_win (windowIndex s j) = true)
          ∧ sndTimeout s = ⟨{ s with timer_armed := true },
              [.tx (memRead s.snd_win (windowIndex s k)).pkt, .evt .retransmit, .timerStart],
              respond .timeoutRetransmit⟩)
      ∨ (s.timer_armed = true ∧ (∀ k < liveCount s, isAcked s.snd_win (windowIndex s k) = true)
          ∧ sndTimeout s = ⟨{ s with timer_armed := false }, [], respond .timeoutNothing⟩) := by
  cases ha : s.timer_armed with
  | false => exact .inl ⟨rfl, by simp [sndTimeout, ha]⟩
  | true =>
    right
    rcases oldestUnacked_spec s with ⟨k, hk, hf, hu, hall⟩ | ⟨hf, hall⟩
    · exact .inl ⟨rfl, k, hk, hu, hall, by simp [sndTimeout, ha, hf]⟩
    · exact .inr ⟨rfl, hall, by simp [sndTimeout, ha, hf]⟩

/-- Everything `RCV.PKT` can do (R106). -/
theorem rcvPkt_cases (p : Packet) (r : ReceiverState) :
    (corrupted p = true ∧ rcvPkt p r = ⟨r, [], respond .dataCorrupt⟩)
      ∨ (corrupted p = false ∧ acceptable r p.seqnum = false
          ∧ rcvPkt p r = ⟨countAck r, [.evt .dataRx, .tx (ackFor p r)], respond .dataOutOfRange⟩)
      ∨ (corrupted p = false ∧ acceptable r p.seqnum = true ∧ p.seqnum ≠ zextSeq r.expectedseqnum
          ∧ rcvPkt p r = ⟨storePacket p (countAck r), [.evt .dataRx, .tx (ackFor p r)], respond .dataBuffered⟩)
      ∨ (corrupted p = false ∧ acceptable r p.seqnum = true ∧ p.seqnum = zextSeq r.expectedseqnum
          ∧ rcvPkt p r =
            ⟨(deliverRun WINDOWSIZE (storePacket p (countAck r))).1,
              [.evt .dataRx, .tx (ackFor p r)]
                ++ (deliverRun WINDOWSIZE (storePacket p (countAck r))).2.map .deliver,
              respondWith .dataDelivered
                (BitVec.ofNat FIELD_W (deliverRun WINDOWSIZE (storePacket p (countAck r))).2.length)⟩) := by
  unfold rcvPkt
  split
  · next h => exact .inl ⟨h, rfl⟩
  · next h =>
    right
    have hc : corrupted p = false := by simpa using h
    by_cases ha : acceptable r p.seqnum = true
    · right
      by_cases he : p.seqnum = zextSeq r.expectedseqnum
      · exact .inr ⟨hc, ha, he, by rw [he] at ha; simp [he, ha]⟩
      · exact .inl ⟨hc, ha, he, by simp [ha, he]⟩
    · have ha' : acceptable r p.seqnum = false := by simpa using ha
      exact .inl ⟨hc, ha', by simp [ha']⟩

/-! ## The input stream -/

/-- Everything `step` can do. -/
theorem step_cases (s : State) :
    (s.inputs = [] ∧ step s = .next s)
      ∨ (∃ rest, s.inputs = .reset :: rest ∧ step s = .next (takeReset { s with inputs := rest }))
      ∨ (∃ w rest i, s.inputs = .command w :: rest ∧ decode w = .ok i ∧ step s = exec i { s with inputs := rest })
      ∨ (∃ w rest e, s.inputs = .command w :: rest ∧ decode w = .error e
          ∧ step s = .next (raiseIllegal { s with inputs := rest })) := by
  rcases h : s.inputs with _ | ⟨x, rest⟩
  · exact .inl ⟨rfl, by simp [step, takeInput, h, idle]⟩
  · cases x with
    | reset => exact .inr (.inl ⟨rest, rfl, by simp [step, takeInput, h]⟩)
    | command w =>
      cases hd : decode w with
      | ok i => exact .inr (.inr (.inl ⟨w, rest, i, rfl, hd, by simp [step, takeInput, h, hd]⟩))
      | error e => exact .inr (.inr (.inr ⟨w, rest, e, rfl, hd, by simp [step, takeInput, h, hd]⟩))

end Sys2Proof.Machine
end

