-- ==== Sys2Proof/Laws/PerInstr.lean ====
section
/-! SUPPORT. The statements made command by command: the opcode an encoded command carries (30_encoding.md R47). -/

namespace Sys2Proof.Laws

open Sys2Proof.Config

/-- Format `C` carries its opcode in `cmd[3:0]`, whatever the operands (30_encoding.md R46). -/
theorem opcodeField_formatC (op : BitVec 4) (p : Packet) : opcodeField (formatC op p) = op := by
  apply BitVec.eq_of_getElem_eq
  intro i hi
  have h4 : i < CMD_W := lt_of_lt_of_le hi (by decide)
  simp [opcodeField, formatC, BitVec.getElem_extractLsb', hi, h4]

/-- The word of a command decodes by that command's row of the opcode map, and the command is well formed. -/
def EncodedOpcode.Statement (i : Instr) : Prop := opcodeField (encode i) = opcodeOf i ∧ i.wellFormed = true

theorem EncodedOpcode.chkCompute (seqnum acknum : Word) (payload : Message) :
    EncodedOpcode.Statement (.chkCompute seqnum acknum payload) := ⟨opcodeField_formatC _ _, rfl⟩

theorem EncodedOpcode.chkVerify (pkt : Packet) : EncodedOpcode.Statement (.chkVerify pkt) :=
  ⟨opcodeField_formatC _ _, rfl⟩

theorem EncodedOpcode.seqAdd (a b : Word) : EncodedOpcode.Statement (.seqAdd a b) := ⟨opcodeField_formatC _ _, rfl⟩

theorem EncodedOpcode.seqSub (a b : Word) : EncodedOpcode.Statement (.seqSub a b) := ⟨opcodeField_formatC _ _, rfl⟩

theorem EncodedOpcode.seqInrange (first last x : Word) : EncodedOpcode.Statement (.seqInrange first last x) :=
  ⟨opcodeField_formatC _ _, rfl⟩

theorem EncodedOpcode.sndInit : EncodedOpcode.Statement .sndInit := ⟨opcodeField_formatC _ _, rfl⟩

theorem EncodedOpcode.sndSubmit (msg : Message) : EncodedOpcode.Statement (.sndSubmit msg) :=
  ⟨opcodeField_formatC _ _, rfl⟩

theorem EncodedOpcode.sndPkt (pkt : Packet) : EncodedOpcode.Statement (.sndPkt pkt) := ⟨opcodeField_formatC _ _, rfl⟩

theorem EncodedOpcode.sndTimeout : EncodedOpcode.Statement .sndTimeout := ⟨opcodeField_formatC _ _, rfl⟩

theorem EncodedOpcode.rcvInit : EncodedOpcode.Statement .rcvInit := ⟨opcodeField_formatC _ _, rfl⟩

theorem EncodedOpcode.rcvPkt (pkt : Packet) : EncodedOpcode.Statement (.rcvPkt pkt) := ⟨opcodeField_formatC _ _, rfl⟩

end Sys2Proof.Laws
end

