-- ==== Sys2Proof/Machine/Outputs.lean ====
section
/-! DEFINITION. The numbers and ports of what a command hands out (30_encoding.md R53 to R58): tags, one-hot event
strobes, response codes, and which port carries which record. -/

namespace Sys2Proof.Machine

open Config

/-- The bit of `evt[4:0]` an event raises (30_encoding.md R58). -/
def eventBit : Event → Nat
  | .windowFull => 0
  | .ackRx => 1
  | .newAck => 2
  | .retransmit => 3
  | .dataRx => 4

/-- The one-hot strobe of an event (30_encoding.md R56, R58). -/
def eventStrobe (e : Event) : BitVec 5 := 1#5 <<< eventBit e

/-- The four-bit tag of a record in a trace (30_encoding.md R56). -/
def outputTag {P : Nat} : OutputOf P → BitVec 4
  | .tx _ => 0x1#4
  | .deliver _ => 0x2#4
  | .timerStart => 0x3#4
  | .timerStop => 0x4#4
  | .evt _ => 0x5#4

/-- What a record carries. -/
inductive CarriedBy (P : Nat) where
  | packet (bits : BitVec (96 + 8 * P))
  | message (bits : BitVec (8 * P))
  | duration (units : Nat)
  | nothing
  | strobe (bits : BitVec 5)
  deriving DecidableEq, Repr

/-- The payload column of 30_encoding.md R56; `TIMER_START` carries the OPEN constant (00_scope.md R10). -/
def carriedBy {P : Nat} (o : OutputOf P) (duration : Nat := TIMER_DURATION) : CarriedBy P :=
  match o with
  | .tx pkt => .packet (packetToBits pkt)
  | .deliver payload => .message payload
  | .timerStart => .duration duration
  | .timerStop => .nothing
  | .evt e => .strobe (eventStrobe e)

/-- The output ports that carry records (30_encoding.md R53). -/
inductive Port where
  | channel
  | application
  | timer
  | reporting
  deriving DecidableEq, Repr

/-- The port a record appears on (30_encoding.md R53). -/
def portOf {P : Nat} : OutputOf P → Port
  | .tx _ => .channel
  | .deliver _ => .application
  | .timerStart => .timer
  | .timerStop => .timer
  | .evt _ => .reporting

/-- What an observer of one port sees of a command: its records in emission order (30_encoding.md R55). -/
def seenOn {P : Nat} (port : Port) (outputs : List (OutputOf P)) : List (OutputOf P) := outputs.filter fun o => portOf o == port

/-- `rsp_code[3:0]` (30_encoding.md R57). -/
def rspCodeBits : RspCode → BitVec 4
  | .initDone => 0x0#4
  | .submitAccepted => 0x1#4
  | .submitWindowFull => 0x2#4
  | .ackCorrupt => 0x3#4
  | .ackDuplicate => 0x4#4
  | .ackNew => 0x5#4
  | .ackNewSlide => 0x6#4
  | .timeoutRetransmit => 0x7#4
  | .timeoutNothing => 0x8#4
  | .timeoutSpurious => 0x9#4
  | .dataCorrupt => 0xA#4
  | .dataOutOfRange => 0xB#4
  | .dataBuffered => 0xC#4
  | .dataDelivered => 0xD#4
  | .leafResult => 0xE#4
  | .illegal => 0xF#4

/-- The packets a command hands to the channel, in order. -/
def transmitted {P : Nat} (outputs : List (OutputOf P)) : List (PacketOf P) :=
  outputs.filterMap fun | .tx pkt => some pkt | _ => none

/-- The messages a command hands to the application, in order. -/
def deliveries {P : Nat} (outputs : List (OutputOf P)) : List (BitVec (8 * P)) :=
  outputs.filterMap fun | .deliver m => some m | _ => none

/-- How often a command raises an event strobe. -/
def strobes {P : Nat} (e : Event) (outputs : List (OutputOf P)) : Nat := outputs.count (.evt e)

end Sys2Proof.Machine
end

