-- ==== Sys2Proof/Machine/Link.lean ====
section
/-! DEFINITION. A complete link (60_exceptions.md R136): two blocks, one given only unit-2 commands and one only unit-3
commands, and an environment that keeps the contracts of R131 (timer service), R132 and R134 (applications), R133
(channel) and R135 (reporting counters) and is otherwise arbitrary: each of its choices is an argument. None of this is
state of the block (10_state.md R28, 00_scope.md R3); see assumption log 11. -/

namespace Sys2Proof.Machine

open Config

/-- The timer service of one sender (60_exceptions.md R131). -/
inductive TimerService where
  | stopped
  | armed
  /-- It was armed while armed or stopped while stopped: "an error", whose behaviour is the service's own contract
  (93_implementation_defined.md X1, treatment `refuse`). A stuck state. -/
  | misused
  deriving DecidableEq, Repr

/-- `TIMER_START` at the timer service (R131). -/
def timerArm : TimerService → TimerService
  | .stopped => .armed
  | .armed => .misused
  | .misused => .misused

/-- `TIMER_STOP` at the timer service (R131). -/
def timerDisarm : TimerService → TimerService
  | .stopped => .misused
  | .armed => .stopped
  | .misused => .misused

/-- The timer service takes one output record. -/
def timerTakes (t : TimerService) : Output → TimerService
  | .timerStart => timerArm t
  | .timerStop => timerDisarm t
  | .tx _ => t
  | .deliver _ => t
  | .evt _ => t

/-- The five reporting counters (60_exceptions.md R135). -/
structure Counters where
  windowFull : Nat
  ackRx : Nat
  newAck : Nat
  retransmit : Nat
  dataRx : Nat
  deriving DecidableEq, Repr

/-- One added to the matching counter per strobe (60_exceptions.md R122, R135). -/
def countStrobes (c : Counters) (outputs : List Output) : Counters where
  windowFull := c.windowFull + strobes .windowFull outputs
  ackRx := c.ackRx + strobes .ackRx outputs
  newAck := c.newAck + strobes .newAck outputs
  retransmit := c.retransmit + strobes .retransmit outputs
  dataRx := c.dataRx + strobes .dataRx outputs

/-- A link: the two blocks, the packets in flight in each direction (oldest first), the timer service, the counters, and
two histories: the messages accepted from the sending application and those delivered to the receiving one. -/
structure Link where
  blockA : State
  blockB : State
  dataChannel : List Packet
  ackChannel : List Packet
  timer : TimerService
  counters : Counters
  accepted : List Message
  delivered : List Message
  deriving DecidableEq, Repr

/-- Both ends reset together, the timer stopped, the channel empty, the counters zero (70_reset_and_hazards.md R143). -/
def initialLink : Link where
  blockA := State.reset
  blockB := State.reset
  dataChannel := []
  ackChannel := []
  timer := .stopped
  counters := ⟨0, 0, 0, 0, 0⟩
  accepted := []
  delivered := []

/-- What the environment can do next (60_exceptions.md R125, R131 to R133). An arriving packet is given as it arrives:
the channel may have changed any of its bits. -/
inductive LinkAction where
  /-- The sending application has a message ready (R132). -/
  | submit (msg : Message)
  /-- The oldest data packet in flight arrives as this packet (R133). -/
  | dataArrives (asSeen : Packet)
  /-- The oldest data packet in flight is dropped (R133). -/
  | dataLost
  /-- The oldest acknowledgment in flight arrives as this packet (R133). -/
  | ackArrives (asSeen : Packet)
  /-- The oldest acknowledgment in flight is dropped (R133). -/
  | ackLost
  /-- The armed timer expires (R131). -/
  | timerExpires
  deriving DecidableEq, Repr

/-- The block after a command. No command faults or is refused, so the other outcomes, which keep the block as it was,
are never met. -/
def afterCommand (i : Instr) (s : State) : State :=
  match exec i s with
  | .next t => t
  | .fault _ => s
  | .refused _ => s

/-- Block A runs a command; its outputs go to the channel, the timer service and the counters (R136). -/
def senderRuns (l : Link) (i : Instr) : Link :=
  let a := afterCommand i l.blockA
  { l with
    blockA := a
    dataChannel := l.dataChannel ++ transmitted a.outputs
    timer := a.outputs.foldl timerTakes l.timer
    counters := countStrobes l.counters a.outputs }

/-- Block B runs a command; its outputs go to the channel, the receiving application and the counters (R136). -/
def receiverRuns (l : Link) (i : Instr) : Link :=
  let b := afterCommand i l.blockB
  { l with
    blockB := b
    ackChannel := l.ackChannel ++ transmitted b.outputs
    delivered := l.delivered ++ deliveries b.outputs
    counters := countStrobes l.counters b.outputs }

/-- One action of the environment; none where its contract does not allow it (an arrival or a loss with nothing in
flight, an expiry of a timer that is not armed). -/
def linkAct (l : Link) : LinkAction → Option Link
  | .submit msg =>
    let after := senderRuns l (.sndSubmit msg)
    some { after with
      accepted :=
        if after.blockA.response = some (respond .submitAccepted) then l.accepted ++ [msg] else l.accepted }
  | .dataArrives asSeen =>
    match l.dataChannel with
    | [] => none
    | _ :: inFlight => some (receiverRuns { l with dataChannel := inFlight } (.rcvPkt asSeen))
  | .dataLost =>
    match l.dataChannel with
    | [] => none
    | _ :: inFlight => some { l with dataChannel := inFlight }
  | .ackArrives asSeen =>
    match l.ackChannel with
    | [] => none
    | _ :: inFlight => some (senderRuns { l with ackChannel := inFlight } (.sndPkt asSeen))
  | .ackLost =>
    match l.ackChannel with
    | [] => none
    | _ :: inFlight => some { l with ackChannel := inFlight }
  | .timerExpires =>
    match l.timer with
    | .armed => some (senderRuns { l with timer := .stopped } .sndTimeout)
    | .stopped => none
    | .misused => none

/-- A corruption is detected: the packet arrives as it was sent, or so changed that the checksum shows it (R133;
40_packet_checksum_unit.md R73; the premise of 70_reset_and_hazards.md R159). -/
def corruptionDetected (l : Link) : LinkAction → Bool
  | .submit _ => true
  | .dataArrives asSeen => l.dataChannel.head? == some asSeen || corrupted asSeen
  | .dataLost => true
  | .ackArrives asSeen => l.ackChannel.head? == some asSeen || corrupted asSeen
  | .ackLost => true
  | .timerExpires => true

/-- A run of the link: the environment's choices in order; none if it breaks a contract on the way. -/
def linkRun : List LinkAction → Link → Option Link
  | [], l => some l
  | x :: rest, l => (linkAct l x).bind (linkRun rest)

/-- Every corruption of the run is one the checksum detects. -/
def allCorruptionDetected : List LinkAction → Link → Bool
  | [], _ => true
  | x :: rest, l =>
    corruptionDetected l x &&
      match linkAct l x with
      | none => true
      | some l' => allCorruptionDetected rest l'

end Sys2Proof.Machine
end

