-- ==== Sys2Proof/Machine/Observe.lean ====
section
/-! DEFINITION. What can be observed between commands without side effect: the status outputs (10_state.md R27) and the
debug read port (20_memory.md R40). Both are functions of the state; no rule depends on them. -/

namespace Sys2Proof.Machine

open Config

/-- The status outputs `st_*` (10_state.md R27). -/
structure StatusOutputsOf (idxW cntW seqW : Nat) where
  st_windowfirst : BitVec idxW
  st_windowlast : BitVec idxW
  st_windowcount : BitVec cntW
  st_ackcount : BitVec cntW
  st_nextseqnum : BitVec seqW
  st_timer_armed : Bool
  st_expectedseqnum : BitVec seqW
  st_rcv_base : BitVec idxW
  st_b_nextseqnum : BitVec seqW
  st_snd_empty : Bool
  st_snd_full : Bool
  deriving DecidableEq, Repr

variable {W idxW cntW seqW P : Nat}

/-- Every scalar register of the two engines, and the two derived bits (10_state.md R26, R27). -/
def statusOf (s : SenderStateOf W idxW cntW seqW P) (r : ReceiverStateOf W idxW seqW P) :
    StatusOutputsOf idxW cntW seqW where
  st_windowfirst := s.windowfirst
  st_windowlast := s.windowlast
  st_windowcount := s.windowcount
  st_ackcount := s.ackcount
  st_nextseqnum := s.nextseqnum
  st_timer_armed := s.timer_armed
  st_expectedseqnum := r.expectedseqnum
  st_rcv_base := r.rcv_base
  st_b_nextseqnum := r.b_nextseqnum
  st_snd_empty := sndEmpty s
  st_snd_full := sndFull s

/-- The status outputs of this hardware. -/
def statusOutputs (s : State) : StatusOutputsOf IDX_W CNT_W SEQ_W := statusOf s.sender s.receiver

/-- `dbg_space`: 0 selects `SND`, 1 selects `RCV` (20_memory.md R40). -/
inductive DebugSpace where
  | snd
  | rcv
  deriving DecidableEq, Repr

/-- `{acked, pkt}` with `acked` in the top bit (20_memory.md R40). -/
def slotBits (slot : SlotOf P) : BitVec (96 + 8 * P + 1) :=
  ((BitVec.ofBool slot.acked).setWidth (96 + 8 * P + 1) <<< (96 + 8 * P))
    ||| (packetToBits slot.pkt).setWidth (96 + 8 * P + 1)

/-- `dbg_slot`: `{acked, pkt}` of `SND`, `{0, pkt}` of `RCV`, all zeros for an index not below `W` (20_memory.md R40). -/
def readSlot [NeZero W] (s : SenderStateOf W idxW cntW seqW P) (r : ReceiverStateOf W idxW seqW P) (space : DebugSpace)
    (idx : BitVec idxW) : BitVec (96 + 8 * P + 1) :=
  if idx.toNat < W then
    match space with
    | .snd => slotBits (memRead s.snd_win idx.toNat)
    | .rcv => (packetToBits (memRead r.rcv_buf idx.toNat)).setWidth (96 + 8 * P + 1)
  else 0

/-- The debug read port of this hardware. -/
def debugSlot (s : State) (space : DebugSpace) (idx : BitVec IDX_W) : BitVec SLOT_W :=
  readSlot s.sender s.receiver space idx

end Sys2Proof.Machine
end

