-- ==== Sys2Proof/Machine/Parametric.lean ====
section
/-! DEFINITION. The block for any parameters (00_scope.md section 4: every number of R5 to R10 and `BYTE_EXT` is an argument
of the model): its state, its decoder and encoder, and its step as 00_scope.md section 5 writes it, a function of a state and
a command to a state, a list of outputs and a response. The machine behind the host's interface is this one at the defaults
(`Laws/Parametric.lean`). -/

namespace Sys2Proof.Machine

open Config

/-! ## State -/

/-- The state of a block with parameters `c`: the two engines' records, with the derived widths of 00_scope.md R11. -/
structure BlockOf (c : Params) where
  sender : SenderStateOf c.windowSize c.idxW c.cntW c.seqW c.payloadBytes
  receiver : ReceiverStateOf c.windowSize c.idxW c.seqW c.payloadBytes
  deriving DecidableEq, Repr

/-- The table of 10_state.md R29. -/
def blockReset (c : Params) : BlockOf c where
  sender := SenderStateOf.reset
  receiver := ReceiverStateOf.reset c.notInUse

/-! ## Commands -/

/-- The eleven operations (30_encoding.md R47). -/
inductive Operation where
  | chkCompute
  | chkVerify
  | seqAdd
  | seqSub
  | seqInrange
  | sndInit
  | sndSubmit
  | sndPkt
  | sndTimeout
  | rcvInit
  | rcvPkt
  deriving DecidableEq, Repr

/-- A command: an operation and one packet-shaped operand block (30_encoding.md R45, R46). -/
structure CommandOf (P : Nat) where
  operation : Operation
  operands : PacketOf P
  deriving DecidableEq, Repr

/-- The opcode map (30_encoding.md R47, R50). -/
def operationAt (opcode : BitVec 4) : Except DecodeError Operation :=
  match opcode.toNat with
  | 0x0 => .ok .chkCompute
  | 0x1 => .ok .chkVerify
  | 0x4 => .ok .seqAdd
  | 0x5 => .ok .seqSub
  | 0x6 => .ok .seqInrange
  | 0x8 => .ok .sndInit
  | 0x9 => .ok .sndSubmit
  | 0xA => .ok .sndPkt
  | 0xB => .ok .sndTimeout
  | 0xC => .ok .rcvInit
  | 0xD => .ok .rcvPkt
  | _ => .error (.reservedOpcode opcode)

/-- The opcode of an operation (30_encoding.md R47). -/
def Operation.opcode : Operation → BitVec 4
  | .chkCompute => 0x0#4
  | .chkVerify => 0x1#4
  | .seqAdd => 0x4#4
  | .seqSub => 0x5#4
  | .seqInrange => 0x6#4
  | .sndInit => 0x8#4
  | .sndSubmit => 0x9#4
  | .sndPkt => 0xA#4
  | .sndTimeout => 0xB#4
  | .rcvInit => 0xC#4
  | .rcvPkt => 0xD#4

/-- The decoder of a block with parameters `c`; total, rejecting reserved opcodes by name (30_encoding.md R50, R52). -/
def decodeWith (c : Params) (w : BitVec c.cmdW) : Except DecodeError (CommandOf c.payloadBytes) :=
  match operationAt (opcodeField w) with
  | .ok op => .ok ⟨op, operandPacket w c.payloadBytes⟩
  | .error e => .error e

/-- The encoder of a block with parameters `c` (30_encoding.md R46). -/
def encodeWith (c : Params) (cmd : CommandOf c.payloadBytes) : BitVec c.cmdW :=
  formatC cmd.operation.opcode cmd.operands

/-! ## The step -/

/-- What a command leads to: the new state, the output records in order, and the one response (00_scope.md section 5). -/
structure AnswerOf (c : Params) where
  block : BlockOf c
  outputs : List (OutputOf c.payloadBytes)
  response : Response
  deriving DecidableEq, Repr

variable {c : Params}

/-- A command of U0 or U1: no state and no output. -/
def answerLeaf (b : BlockOf c) (r : Response) : AnswerOf c := ⟨b, [], r⟩

/-- A command of U2: only `SenderState` changes (10_state.md R12). -/
def answerSender (b : BlockOf c)
    (r : ReactionOf c.payloadBytes (SenderStateOf c.windowSize c.idxW c.cntW c.seqW c.payloadBytes)) : AnswerOf c :=
  ⟨{ b with sender := r.state }, r.outputs, r.response⟩

/-- A command of U3: only `ReceiverState` changes (10_state.md R12). -/
def answerReceiver (b : BlockOf c)
    (r : ReactionOf c.payloadBytes (ReceiverStateOf c.windowSize c.idxW c.seqW c.payloadBytes)) : AnswerOf c :=
  ⟨{ b with receiver := r.state }, r.outputs, r.response⟩

/-- One command of a block with parameters `c`, in the rules' own operations: 40_packet_checksum_unit.md R70, R71;
41_sequence_modulo_comparator.md R76 to R78; 42_sender_window_fsm.md R83 to R97; 43_receiver_reorder_fsm.md R105 to R113. -/
def react [NeZero c.windowSize] (cmd : CommandOf c.payloadBytes) (b : BlockOf c) : AnswerOf c :=
  let p := cmd.operands
  match cmd.operation with
  | .chkCompute => answerLeaf b (respondWith .leafResult (chk p.seqnum p.acknum p.payload c.byteExt))
  | .chkVerify => answerLeaf b (respondWith .leafResult (if corrupted p c.byteExt then 1 else 0))
  | .seqAdd => answerLeaf b (leafSeqAdd p.seqnum p.acknum c.seqSpace)
  | .seqSub => answerLeaf b (leafSeqSub p.seqnum p.acknum c.seqSpace)
  | .seqInrange =>
    answerLeaf b (respondWith .leafResult
      (if seqInrange p.seqnum.toNat p.acknum.toNat p.checksum.toNat c.seqSpace then 1 else 0))
  | .sndInit => answerSender b (sndInit b.sender)
  | .sndSubmit => answerSender b (sndSubmit p.payload b.sender c.seqSpace c.notInUse c.byteExt)
  | .sndPkt => answerSender b (sndPkt p b.sender c.seqSpace c.byteExt)
  | .sndTimeout => answerSender b (sndTimeout b.sender)
  | .rcvInit => answerReceiver b (rcvInit b.receiver c.notInUse)
  | .rcvPkt => answerReceiver b (rcvPkt p b.receiver c.seqSpace c.filler c.byteExt)

/-- One step: the command word is decoded and run, and a reserved opcode raises `ILLEGAL` (30_encoding.md R50, R52). -/
def stepWith (c : Params) [NeZero c.windowSize] (b : BlockOf c) (w : BitVec c.cmdW) : AnswerOf c :=
  match decodeWith c w with
  | .ok cmd => react cmd b
  | .error _ => answerLeaf b (respond .illegal)

/-! ## This hardware's instructions as commands -/

/-- The operation of an instruction. -/
def operationOf : Instr → Operation
  | .chkCompute _ _ _ => .chkCompute
  | .chkVerify _ => .chkVerify
  | .seqAdd _ _ => .seqAdd
  | .seqSub _ _ => .seqSub
  | .seqInrange _ _ _ => .seqInrange
  | .sndInit => .sndInit
  | .sndSubmit _ => .sndSubmit
  | .sndPkt _ => .sndPkt
  | .sndTimeout => .sndTimeout
  | .rcvInit => .rcvInit
  | .rcvPkt _ => .rcvPkt

/-- The instruction of an operation and an operand block: it keeps the operands the operation uses (30_encoding.md R49). -/
def instrOf (op : Operation) (p : Packet) : Instr :=
  match op with
  | .chkCompute => .chkCompute p.seqnum p.acknum p.payload
  | .chkVerify => .chkVerify p
  | .seqAdd => .seqAdd p.seqnum p.acknum
  | .seqSub => .seqSub p.seqnum p.acknum
  | .seqInrange => .seqInrange p.seqnum p.acknum p.checksum
  | .sndInit => .sndInit
  | .sndSubmit => .sndSubmit p.payload
  | .sndPkt => .sndPkt p
  | .sndTimeout => .sndTimeout
  | .rcvInit => .rcvInit
  | .rcvPkt => .rcvPkt p

/-- An instruction as an operation and its operand block. -/
def commandOf (i : Instr) : CommandOf params.payloadBytes := ⟨operationOf i, operandsOf i⟩

/-- The block of this hardware's state. -/
def blockOf (s : State) : BlockOf params := ⟨s.sender, s.receiver⟩

/-- The state after an answer; the stream is the one given. -/
def stateAfter (s : State) (a : AnswerOf params) : State where
  sender := a.block.sender
  receiver := a.block.receiver
  inputs := s.inputs
  outputs := a.outputs
  response := some a.response

end Sys2Proof.Machine
end

