-- ==== Sys2Proof/Safety.lean ====
section
/-! DEFINITION. What a good state is: the invariants of 70_reset_and_hazards.md R150 to R157, and the predicates the
statements are written in. -/

namespace Sys2Proof.Machine

open Config

/-! ## The sender (R150 to R155) -/

/-- R150, the sender's part. -/
abbrev SenderBounds (s : SenderState) : Prop :=
  s.ackcount.toNat ≤ WINDOWSIZE - 1 ∧ liveCount s ≤ WINDOWSIZE ∧ s.windowfirst.toNat < WINDOWSIZE
    ∧ s.windowlast.toNat < WINDOWSIZE ∧ s.nextseqnum.toNat < SEQSPACE

/-- R151: `windowlast = (windowfirst + L - 1) mod W`, written without a subtraction. -/
abbrev LastFollowsFirst (s : SenderState) : Prop :=
  (s.windowlast.toNat + 1) % WINDOWSIZE = (s.windowfirst.toNat + liveCount s) % WINDOWSIZE

/-- The record of the live slot `k` places after the oldest (10_state.md R20). -/
abbrev liveSlot (s : SenderState) (k : Nat) : Slot := memRead s.snd_win (windowIndex s k)

/-- R152: live slot `k` holds the packet numbered `(seqfirst + k) mod S`, with `acknum = NOTINUSE` and a correct checksum,
and `nextseqnum = (seqfirst + L) mod S`. -/
abbrev LiveConsecutive (s : SenderState) : Prop :=
  (∀ k < liveCount s,
      (liveSlot s k).pkt.seqnum.toNat = ((seqFirst s).toNat + k) % SEQSPACE
        ∧ (liveSlot s k).pkt.acknum = NOTINUSE ∧ corrupted (liveSlot s k).pkt = false)
    ∧ (0 < liveCount s → s.nextseqnum.toNat = ((seqFirst s).toNat + liveCount s) % SEQSPACE)

/-- R153: the oldest live slot is unacknowledged. -/
abbrev OldestUnacked (s : SenderState) : Prop :=
  0 < liveCount s → isAcked s.snd_win s.windowfirst.toNat = false

/-- R154: the counts count flags. -/
abbrev CountsCountFlags (s : SenderState) : Prop :=
  (liveIndices s).countP (fun i => isAcked s.snd_win i) = s.ackcount.toNat
    ∧ (liveIndices s).countP (fun i => !isAcked s.snd_win i) = s.windowcount.toNat

/-- R155, first sentence: `timer_armed = 1` exactly when `windowcount >= 1`. -/
abbrev TimerShadowsWindow (s : SenderState) : Prop := s.timer_armed = true ↔ 1 ≤ s.windowcount.toNat

/-- R150 to R155 together. -/
abbrev SenderInvariant (s : SenderState) : Prop :=
  SenderBounds s ∧ LastFollowsFirst s ∧ LiveConsecutive s ∧ OldestUnacked s ∧ CountsCountFlags s ∧ TimerShadowsWindow s

/-! ## The receiver (R150, R157) -/

/-- R157: a buffer slot holds the reset record, or an uncorrupted packet numbered in `[0, S)` whose number belongs to that
slot. -/
abbrev BufferSlotOk (r : ReceiverState) (i : Nat) : Prop :=
  memRead r.rcv_buf i = emptyRcvSlot
    ∨ (corrupted (memRead r.rcv_buf i) = false ∧ (memRead r.rcv_buf i).seqnum.toNat < SEQSPACE
        ∧ (memRead r.rcv_buf i).seqnum.toNat % WINDOWSIZE = i)

/-- R150 for the receiver's registers, and R157. -/
abbrev ReceiverInvariant (r : ReceiverState) : Prop :=
  r.expectedseqnum.toNat < SEQSPACE ∧ r.b_nextseqnum.toNat < SEQSPACE ∧ r.rcv_base.toNat < WINDOWSIZE
    ∧ r.rcv_base.toNat = r.expectedseqnum.toNat % WINDOWSIZE ∧ ∀ i < WINDOWSIZE, BufferSlotOk r i

/-- A good state of the block: both engines' invariants. -/
abbrev Good (s : State) : Prop := SenderInvariant s.sender ∧ ReceiverInvariant s.receiver

/-! ## The timer port (R155) -/

/-- Reads a command's records on the timer port: none if it starts a timer that is armed or stops one that is stopped,
else whether the timer is armed after them. -/
def timerPortAfter : Bool → List Output → Option Bool
  | armed, [] => some armed
  | armed, .timerStart :: rest => if armed then none else timerPortAfter true rest
  | armed, .timerStop :: rest => if armed then timerPortAfter false rest else none
  | armed, .tx _ :: rest => timerPortAfter armed rest
  | armed, .deliver _ :: rest => timerPortAfter armed rest
  | armed, .evt _ :: rest => timerPortAfter armed rest

/-! ## What a command may depend on (R158) -/

/-- Two senders that agree on every register and on every live slot; slots that are not live may differ. -/
abbrev SameLiveWindow (s t : SenderState) : Prop :=
  s.windowfirst = t.windowfirst ∧ s.windowlast = t.windowlast ∧ s.windowcount = t.windowcount
    ∧ s.ackcount = t.ackcount ∧ s.nextseqnum = t.nextseqnum ∧ s.timer_armed = t.timer_armed
    ∧ ∀ k < liveCount s, liveSlot s k = liveSlot t k

/-! ## What the statements say of values -/

/-- The checksum of R70 as arithmetic on numbers: the sum of the two fields and of the `P` payload bytes, modulo `2^32`. -/
def checksumValue {P : Nat} (seqnum acknum : Word) (m : BitVec (8 * P)) : Nat :=
  (seqnum.toNat + acknum.toNat + ∑ i ∈ Finset.range P, m.toNat / 2 ^ (8 * i) % 256) % 2 ^ FIELD_W

/-- The same sum where `BYTE_EXT` is sign-extension: a byte of 0x80 or more adds `2^32 - 256` more (R70). -/
def signedChecksumValue {P : Nat} (seqnum acknum : Word) (m : BitVec (8 * P)) : Nat :=
  (seqnum.toNat + acknum.toNat
    + ∑ i ∈ Finset.range P,
        (m.toNat / 2 ^ (8 * i) % 256 + if m.toNat / 2 ^ (8 * i) % 256 < 128 then 0 else 2 ^ FIELD_W - 256)) % 2 ^ FIELD_W

/-- The sender rows of the table of 10_state.md R29. -/
abbrev SenderResetRows (s : SenderState) : Prop :=
  s.windowfirst.toNat = 0 ∧ s.windowlast.toNat = WINDOWSIZE - 1 ∧ s.windowcount.toNat = 0 ∧ s.ackcount.toNat = 0
    ∧ s.nextseqnum.toNat = 0 ∧ s.timer_armed = false
    ∧ ∀ i < WINDOWSIZE, (memRead s.snd_win i).acked = false ∧ packetToBits (memRead s.snd_win i).pkt = 0

/-- The receiver rows of the table of 10_state.md R29. -/
abbrev ReceiverResetRows (r : ReceiverState) : Prop :=
  r.expectedseqnum.toNat = 0 ∧ r.b_nextseqnum.toNat = 1 ∧ r.rcv_base.toNat = 0
    ∧ ∀ i < WINDOWSIZE, (memRead r.rcv_buf i).seqnum = NOTINUSE ∧ (memRead r.rcv_buf i).acknum = 0
        ∧ (memRead r.rcv_buf i).checksum = 0 ∧ (memRead r.rcv_buf i).payload = 0

/-- The response codes each command can give: the column "given by" of the table of 30_encoding.md R57. -/
def responsesOf : Instr → List RspCode
  | .chkCompute _ _ _ => [.leafResult]
  | .chkVerify _ => [.leafResult]
  | .seqAdd _ _ => [.leafResult, .illegal]
  | .seqSub _ _ => [.leafResult, .illegal]
  | .seqInrange _ _ _ => [.leafResult]
  | .sndInit => [.initDone]
  | .sndSubmit _ => [.submitAccepted, .submitWindowFull]
  | .sndPkt _ => [.ackCorrupt, .ackDuplicate, .ackNew, .ackNewSlide]
  | .sndTimeout => [.timeoutRetransmit, .timeoutNothing, .timeoutSpurious]
  | .rcvInit => [.initDone]
  | .rcvPkt _ => [.dataCorrupt, .dataOutOfRange, .dataBuffered, .dataDelivered]

/-- The commands of one unit, by the unit field of their opcode (30_encoding.md R46). -/
abbrev ofUnit (u : BitVec 2) (i : Instr) : Prop := (opcodeOf i).extractLsb' 2 2 = u

/-- Two packets that differ in exactly one of `seqnum`, `acknum`, `checksum` or one payload byte
(40_packet_checksum_unit.md R73). -/
abbrev DifferInOneTerm (p q : Packet) : Prop :=
  (q.seqnum ≠ p.seqnum ∧ q.acknum = p.acknum ∧ q.checksum = p.checksum ∧ q.payload = p.payload)
    ∨ (q.seqnum = p.seqnum ∧ q.acknum ≠ p.acknum ∧ q.checksum = p.checksum ∧ q.payload = p.payload)
    ∨ (q.seqnum = p.seqnum ∧ q.acknum = p.acknum ∧ q.checksum ≠ p.checksum ∧ q.payload = p.payload)
    ∨ (q.seqnum = p.seqnum ∧ q.acknum = p.acknum ∧ q.checksum = p.checksum
        ∧ ∃ i < PAYLOAD_BYTES, messageByte q.payload i ≠ messageByte p.payload i
            ∧ ∀ j < PAYLOAD_BYTES, j ≠ i → messageByte q.payload j = messageByte p.payload j)

/-- The acknowledgment of 43_receiver_reorder_fsm.md R108, written out: own number, echo, the sum of the two and of `P`
filler bytes as checksum, filler in every payload byte. -/
def writtenAck (own : BitVec SEQ_W) (echoed : Word) : Packet :=
  ⟨own.setWidth FIELD_W, echoed, BitVec.ofNat FIELD_W (own.toNat + echoed.toNat + PAYLOAD_BYTES * FILLER.toNat),
    BitVec.ofNat MSG_W (∑ i ∈ Finset.range PAYLOAD_BYTES, FILLER.toNat * 2 ^ (8 * i))⟩

/-- The acceptance test of 43_receiver_reorder_fsm.md R109 as distance: `seqnum` is a sequence number less than `W` places
after `expectedseqnum`, both read unsigned. -/
abbrev InAcceptanceRange (r : ReceiverState) (seqnum : Word) : Prop :=
  r.expectedseqnum.toNat < SEQSPACE ∧ seqnum.toNat < SEQSPACE
    ∧ (seqnum.toNat + SEQSPACE - r.expectedseqnum.toNat) % SEQSPACE < WINDOWSIZE

/-! ## A link (R155, R159)

Messages are numbered by their place among the messages accepted, from 0 and without a wrap. -/

/-- The timer service and the block's shadow of it agree, and the service was never misused (R155). -/
abbrev TimerInStep (l : Link) : Prop :=
  SenderInvariant l.blockA.sender ∧ l.timer ≠ .misused ∧ (l.timer = .armed ↔ l.blockA.sender.timer_armed = true)

/-- The data packet of accepted message `a`. -/
def packetNumbered (accepted : List Message) (a : Nat) : Packet :=
  dataPacket (BitVec.ofNat SEQ_W (a % SEQSPACE)) (accepted.getD a 0)

/-- The number of the oldest message that is live at the sender; that of the next message where none is. -/
def oldestNumber (l : Link) : Nat := l.accepted.length - liveCount l.blockA.sender

/-- The number `r` is in the receiver's range and its slot holds it: the message waits for delivery. -/
abbrev Buffered (l : Link) (r : Nat) : Prop :=
  l.delivered.length ≤ r ∧ r < l.delivered.length + WINDOWSIZE
    ∧ (memRead l.blockB.receiver.rcv_buf r).seqnum.toNat = r % SEQSPACE

/-- The receiver has message `r`. -/
abbrev Received (l : Link) (r : Nat) : Prop := r < l.delivered.length ∨ Buffered l r

/-- Every live slot holds its message's packet, and is acknowledged only if the receiver has the message. -/
abbrev SenderNumbered (l : Link) : Prop :=
  liveCount l.blockA.sender ≤ l.accepted.length
    ∧ l.blockA.sender.nextseqnum.toNat = l.accepted.length % SEQSPACE
    ∧ ∀ k < liveCount l.blockA.sender,
        (liveSlot l.blockA.sender k).pkt = packetNumbered l.accepted (oldestNumber l + k)
          ∧ ((liveSlot l.blockA.sender k).acked = true → Received l (oldestNumber l + k))

/-- What is delivered is a prefix of what was accepted, nothing that could be delivered waits, and every waiting packet is
its message's. -/
abbrev ReceiverNumbered (l : Link) : Prop :=
  l.delivered <+: l.accepted
    ∧ l.blockB.receiver.expectedseqnum.toNat = l.delivered.length % SEQSPACE
    ∧ oldestNumber l ≤ l.delivered.length
    ∧ ¬ Buffered l l.delivered.length
    ∧ ∀ j < WINDOWSIZE, Buffered l (l.delivered.length + j) →
        l.delivered.length + j < l.accepted.length
          ∧ memRead l.blockB.receiver.rcv_buf (l.delivered.length + j)
              = packetNumbered l.accepted (l.delivered.length + j)

/-- Numbers in flight in one direction, oldest first: a number never trails an older one in flight by `W` or more. -/
abbrev InFlightOrder (numbers : List Nat) : Prop := numbers.Pairwise fun a later => a < later + WINDOWSIZE

/-- Every data packet in flight is an accepted message's, and the receiver has nothing `W` or more ahead of it. -/
abbrev DataInFlight (l : Link) : Prop :=
  ∃ numbers : List Nat, l.dataChannel = numbers.map (packetNumbered l.accepted) ∧ InFlightOrder numbers
    ∧ ∀ a ∈ numbers, a < l.accepted.length ∧ l.delivered.length ≤ a + WINDOWSIZE
        ∧ ∀ j < WINDOWSIZE, Buffered l (l.delivered.length + j) → l.delivered.length + j < a + WINDOWSIZE

/-- Every acknowledgment in flight names a message that the receiver has, and the sender holds nothing acknowledged `W` or
more ahead of it. -/
abbrev AcksInFlight (l : Link) : Prop :=
  ∃ numbers : List Nat,
    List.Forall₂ (fun q a => corrupted q = false ∧ q.acknum.toNat = a % SEQSPACE) l.ackChannel numbers
    ∧ InFlightOrder numbers
    ∧ ∀ a ∈ numbers, Received l a ∧ oldestNumber l ≤ a + WINDOWSIZE
        ∧ ∀ k < liveCount l.blockA.sender, (liveSlot l.blockA.sender k).acked = true →
            oldestNumber l + k < a + WINDOWSIZE

/-- What holds of a link at every moment of a run on which every corruption is detected (R159). -/
abbrev LinkInvariant (l : Link) : Prop :=
  Good l.blockA ∧ Good l.blockB ∧ SenderNumbered l ∧ ReceiverNumbered l ∧ DataInFlight l ∧ AcksInFlight l

end Sys2Proof.Machine
end

