-- ==== Sys2Proof/Certificates/Slice0/Obligations.lean ====
section
/-! DEFINITION. The statements for the provers. Each docstring names the rules of spec/ it rests on; a statement whose basis
is 'derived' says so there. -/

open Sys2Proof Sys2Proof.Machine Sys2Proof.Config

/-! ## Encoding -/

/-- Decode and encode agree on every well-formed command (30_encoding.md R46, R47; derived). -/
def Obligations.DecodeInvertsEncode : Prop :=
  ∀ i : Instr, i.wellFormed = true → decode (encode i) = .ok i

/-- A decoded word, with the bits its command does not use cleared, is that command's encoding (30_encoding.md R46, R49;
derived). -/
def Obligations.EncodeKeepsTheUsedBits : Prop :=
  ∀ (w : CmdWord) (i : Instr), decode w = .ok i → encode i = w &&& usedBits (opcodeField w)

/-- The opcode map of 30_encoding.md R47, operand slices written out as R46 gives them. -/
def Obligations.DecodeFollowsTheOpcodeMap : Prop :=
  ∀ w : CmdWord,
    let a : Word := w.extractLsb' 4 32
    let b : Word := w.extractLsb' 36 32
    let c : Word := w.extractLsb' 68 32
    let d : Message := w.extractLsb' 100 MSG_W
    let op := w.toNat % 16
    (op = 0x0 → decode w = .ok (.chkCompute a b d))
      ∧ (op = 0x1 → decode w = .ok (.chkVerify ⟨a, b, c, d⟩))
      ∧ (op = 0x4 → decode w = .ok (.seqAdd a b))
      ∧ (op = 0x5 → decode w = .ok (.seqSub a b))
      ∧ (op = 0x6 → decode w = .ok (.seqInrange a b c))
      ∧ (op = 0x8 → decode w = .ok .sndInit)
      ∧ (op = 0x9 → decode w = .ok (.sndSubmit d))
      ∧ (op = 0xA → decode w = .ok (.sndPkt ⟨a, b, c, d⟩))
      ∧ (op = 0xB → decode w = .ok .sndTimeout)
      ∧ (op = 0xC → decode w = .ok .rcvInit)
      ∧ (op = 0xD → decode w = .ok (.rcvPkt ⟨a, b, c, d⟩))
      ∧ (op = 0x2 ∨ op = 0x3 ∨ op = 0x7 ∨ op = 0xE ∨ op = 0xF →
          decode w = .error (.reservedOpcode (BitVec.ofNat 4 op)))

/-- Words of the table of 95_test_vectors.md section 2 decode to the commands they stand for (derived: 30_encoding.md R46,
R47, R63). -/
def Obligations.WrittenWordsDecode : Prop :=
  decode 0x616161616161616161616161616161616161616100000000FFFFFFFF000000000#260
      = .ok (.chkCompute 0 0xFFFFFFFF 0x6161616161616161616161616161616161616161)
    ∧ decode 0x00000000000000000000000000000000000000000000000B000000030000000A6#260 = .ok (.seqInrange 10 3 11)
    ∧ decode 0x61616161616161616161616161616161616161610000000000000000000000009#260
      = .ok (.sndSubmit 0x6161616161616161616161616161616161616161)
    ∧ decode 0x616161616161616161616161616161616161616100000793FFFFFFFF00000000D#260
      = .ok (.rcvPkt ⟨0, 0xFFFFFFFF, 0x793, 0x6161616161616161616161616161616161616161⟩)

/-- The layout of a packet (20_memory.md R36): where its fields and the bytes of its payload lie, that a packet and its
`PKT_W` bits determine each other, and that byte `n` of the image is `pkt[8n+7:8n]`: the three fields little-endian in field
order and then the payload bytes in index order. -/
def Obligations.PacketBitsAndImage : Prop :=
  (∀ p : Packet,
      (packetToBits p).extractLsb' 0 32 = p.seqnum ∧ (packetToBits p).extractLsb' 32 32 = p.acknum
        ∧ (packetToBits p).extractLsb' 64 32 = p.checksum
        ∧ ∀ i < PAYLOAD_BYTES, (packetToBits p).extractLsb' (96 + 8 * i) 8 = p.payload.extractLsb' (8 * i) 8)
    ∧ (∀ p : Packet, packetOfBits (packetToBits p) = p)
    ∧ (∀ v : BitVec PKT_W, packetToBits (packetOfBits v) = v)
    ∧ (∀ p : Packet, (packetImage p).length = 12 + PAYLOAD_BYTES)
    ∧ (∀ (p : Packet) (n : Nat), n < 12 + PAYLOAD_BYTES →
        (packetImage p)[n]? = some (packetImageByte p n)
          ∧ packetImageByte p n = (packetToBits p).extractLsb' (8 * n) 8)
    ∧ (∀ (p : Packet) (n : Nat), n < 4 →
        packetImageByte p n = p.seqnum.extractLsb' (8 * n) 8
          ∧ packetImageByte p (4 + n) = p.acknum.extractLsb' (8 * n) 8
          ∧ packetImageByte p (8 + n) = p.checksum.extractLsb' (8 * n) 8)
    ∧ (∀ (p : Packet) (i : Nat), i < PAYLOAD_BYTES → packetImageByte p (12 + i) = messageByte p.payload i)

/-! ## One step -/

/-- A step runs the decoded command, on the state whose stream has moved past its word, and a word that decodes to no
command raises `ILLEGAL` there (20_memory.md R41, 60_exceptions.md R127; the stream is the model's form of the command port,
assumption log 6; derived). -/
def Obligations.StepRunsTheDecodedCommand : Prop :=
  ∀ (s : State) (w : CmdWord) (rest : List Input), s.inputs = .command w :: rest →
    (∀ i : Instr, decode w = .ok i → step s = exec i { s with inputs := rest })
      ∧ (∀ e : DecodeError, decode w = .error e →
          step s = .next { s with inputs := rest, outputs := [], response := some ⟨.illegal, 0⟩ })

/-- A reserved opcode: response 0xF, no output, no register and no slot changes (30_encoding.md R50). -/
def Obligations.ReservedOpcodeIsIllegal : Prop :=
  ∀ (s : State) (w : CmdWord) (rest : List Input),
    s.inputs = .command w :: rest → w.toNat % 16 ∈ [0x2, 0x3, 0x7, 0xE, 0xF] →
      ∃ t, step s = .next t ∧ t.sender = s.sender ∧ t.receiver = s.receiver ∧ t.outputs = []
        ∧ t.response = some ⟨.illegal, 0⟩ ∧ rspCodeBits .illegal = 0xF#4

/-- No command is ever refused, stuck or undefined: every command word is one of the eleven commands or illegal, and runs
to a next state with one response of that command, in every state (30_encoding.md R52). -/
def Obligations.EveryCommandWordCompletes : Prop :=
  ∀ (s : State) (w : CmdWord) (rest : List Input), s.inputs = .command w :: rest →
    ∃ t r, step s = .next t ∧ t.response = some r
      ∧ ((∃ i, decode w = .ok i ∧ r.code ∈ responsesOf i)
          ∨ (w.toNat % 16 ∈ [0x2, 0x3, 0x7, 0xE, 0xF] ∧ r.code = .illegal))

/-- With nothing presented, the block keeps all state (70_reset_and_hazards.md R141; assumption log 9; derived). -/
def Obligations.IdleBlockKeepsItsState : Prop :=
  ∀ s : State, s.inputs = [] → step s = .next s

/-! ## Reset -/

/-- The table of 10_state.md R29, after reset, after `SND.INIT` and after `RCV.INIT`. -/
def Obligations.ResetAndInitLeaveTheTableOfResetValues : Prop :=
  SenderResetRows State.reset.sender ∧ ReceiverResetRows State.reset.receiver
    ∧ (∀ s : State, ∃ t, exec .sndInit s = .next t ∧ SenderResetRows t.sender)
    ∧ (∀ s : State, ∃ t, exec .rcvInit s = .next t ∧ ReceiverResetRows t.receiver)

/-- A reset input resets every register and slot, with no output record and no response (70_reset_and_hazards.md R140), and
the state it leaves is the one `SND.INIT` followed by `RCV.INIT` leaves from any state (derived: `cmd_ready` is not state of
the model, assumption log 13; that the stream survives a reset is the model's choice, assumption log 6). -/
def Obligations.ResetIsBothInits : Prop :=
  (∀ (s : State) (rest : List Input), s.inputs = .reset :: rest → step s = .next { State.reset with inputs := rest })
    ∧ ∀ s : State, ∃ t u, exec .sndInit s = .next t ∧ exec .rcvInit t = .next u
        ∧ u.sender = State.reset.sender ∧ u.receiver = State.reset.receiver

/-! ## U0: checksum -/

/-- `CHK.COMPUTE` (40_packet_checksum_unit.md R70): its encoding, that it answers the sum and changes nothing else, and the
same of a block with any parameters, under both settings of `BYTE_EXT`. -/
def Obligations.ChkComputeAnswersTheSum : Prop :=
  (∀ w : CmdWord, opcodeField w = 0x0#4 → decode w = .ok (.chkCompute (fieldA w) (fieldB w) (fieldD w)))
    ∧ (∀ (seqnum acknum : Word) (m : Message) (s : State),
        exec (.chkCompute seqnum acknum m) s =
          .next { s with
            outputs := [], response := some ⟨.leafResult, BitVec.ofNat 32 (checksumValue seqnum acknum m)⟩ })
    ∧ (∀ (c : Params) [NeZero c.windowSize] (p : PacketOf c.payloadBytes) (b : BlockOf c),
        react ⟨.chkCompute, p⟩ b =
          ⟨b, [], ⟨.leafResult, BitVec.ofNat 32
            (match c.byteExt with
              | .zero => checksumValue p.seqnum p.acknum p.payload
              | .sign => signedChecksumValue p.seqnum p.acknum p.payload)⟩⟩)

/-- The two settings of `BYTE_EXT` agree on payloads with every byte below 0x80 (40_packet_checksum_unit.md R70; derived). -/
def Obligations.ByteExtensionMattersFromBit7 : Prop :=
  ∀ (seqnum acknum : Word) (m : Message), (∀ i < PAYLOAD_BYTES, (messageByte m i).toNat < 0x80) →
    chkWith .sign seqnum acknum m = chkWith .zero seqnum acknum m

/-- `CHK.VERIFY` (40_packet_checksum_unit.md R71): its encoding, and that it answers 0 exactly when the recomputed checksum
is the carried one. -/
def Obligations.ChkVerifyAnswersTheComparison : Prop :=
  (∀ w : CmdWord, opcodeField w = 0x1#4 → decode w = .ok (.chkVerify (operandPacket w)))
    ∧ ∀ (p : Packet) (s : State),
        exec (.chkVerify p) s =
          .next { s with
            outputs := [],
            response := some ⟨.leafResult,
              if checksumValue p.seqnum p.acknum p.payload = p.checksum.toNat then 0 else 1⟩ }

/-- The packets the engines build have the fields of 40_packet_checksum_unit.md R72 and are never corrupted; the filler
byte and `NOTINUSE` are this hardware's (assumption log 2; derived). -/
def Obligations.BuiltPacketsAreNotCorrupted : Prop :=
  (∀ (n : BitVec SEQ_W) (m : Message),
      (dataPacket n m).seqnum = n.setWidth 32 ∧ (dataPacket n m).acknum = NOTINUSE ∧ (dataPacket n m).payload = m
        ∧ (dataPacket n m).checksum.toNat = checksumValue (n.setWidth 32) NOTINUSE m
        ∧ corrupted (dataPacket n m) = false)
    ∧ (∀ (own : BitVec SEQ_W) (e : Word), ackPacket own e = writtenAck own e ∧ corrupted (ackPacket own e) = false)

/-- A change to exactly one term of an uncorrupted packet is always detected (40_packet_checksum_unit.md R73; derived). -/
def Obligations.SingleChangeIsDetected : Prop :=
  ∀ p q : Packet, corrupted p = false → DifferInOneTerm p q → corrupted q = true

/-- Changes that cancel are missed, of all three kinds: one payload byte up and another down by the same amount, `seqnum`
up and `acknum` down by the same amount, and any two payload bytes swapped (40_packet_checksum_unit.md R73; derived). -/
def Obligations.CancellingChangesAreMissed : Prop :=
  (∀ (p : Packet) (m : Message) (i j x : Nat), i < PAYLOAD_BYTES → j < PAYLOAD_BYTES → i ≠ j →
        (messageByte m i).toNat = (messageByte p.payload i).toNat + x →
        (messageByte m j).toNat + x = (messageByte p.payload j).toNat →
        (∀ k < PAYLOAD_BYTES, k ≠ i → k ≠ j → messageByte m k = messageByte p.payload k) →
        corrupted { p with payload := m } = corrupted p)
    ∧ (∀ (p : Packet) (x : Word), corrupted { p with seqnum := p.seqnum + x, acknum := p.acknum - x } = corrupted p)
    ∧ ∀ (p : Packet) (m : Message) (i j : Nat), i < PAYLOAD_BYTES → j < PAYLOAD_BYTES →
        messageByte m i = messageByte p.payload j → messageByte m j = messageByte p.payload i →
        (∀ k < PAYLOAD_BYTES, k ≠ i → k ≠ j → messageByte m k = messageByte p.payload k) →
        corrupted { p with payload := m } = corrupted p

/-! ## U1: sequence arithmetic -/

/-- `SEQ.ADD` (41_sequence_modulo_comparator.md R76): its encoding; the sum, less `S` once where it reaches `S`; `ILLEGAL` for an operand
that is no sequence number. -/
def Obligations.SeqAddIsAdditionModuloS : Prop :=
  (∀ w : CmdWord, opcodeField w = 0x4#4 → decode w = .ok (.seqAdd (fieldA w) (fieldB w)))
    ∧ ∀ (a b : Word) (s : State),
        exec (.seqAdd a b) s =
          .next { s with
            outputs := [],
            response := some (
              if a.toNat < SEQSPACE ∧ b.toNat < SEQSPACE then
                ⟨.leafResult, if a.toNat + b.toNat < SEQSPACE then a + b else a + b - BitVec.ofNat 32 SEQSPACE⟩
              else ⟨.illegal, 0⟩) }

/-- `SEQ.SUB` (41_sequence_modulo_comparator.md R77): its encoding; the difference, plus `S` where the subtraction borrows; `ILLEGAL` for
an operand that is no sequence number. -/
def Obligations.SeqSubIsCircularDistance : Prop :=
  (∀ w : CmdWord, opcodeField w = 0x5#4 → decode w = .ok (.seqSub (fieldA w) (fieldB w)))
    ∧ ∀ (a b : Word) (s : State),
        exec (.seqSub a b) s =
          .next { s with
            outputs := [],
            response := some (
              if a.toNat < SEQSPACE ∧ b.toNat < SEQSPACE then
                ⟨.leafResult, if b.toNat ≤ a.toNat then a - b else a + BitVec.ofNat 32 SEQSPACE - b⟩
              else ⟨.illegal, 0⟩) }

/-- `SEQ.INRANGE` (41_sequence_modulo_comparator.md R78): its encoding; 1 exactly when the three operands are sequence
numbers and walking forward from `first` reaches `x` no later than `last`, else 0. -/
def Obligations.SeqInrangeIsCircularContainment : Prop :=
  (∀ w : CmdWord, opcodeField w = 0x6#4 → decode w = .ok (.seqInrange (fieldA w) (fieldB w) (fieldC w)))
    ∧ ∀ (first last x : Word) (s : State),
        exec (.seqInrange first last x) s =
          .next { s with
            outputs := [],
            response := some ⟨.leafResult,
              if first.toNat < SEQSPACE ∧ last.toNat < SEQSPACE ∧ x.toNat < SEQSPACE
                  ∧ ∃ k < SEQSPACE, (first.toNat + k) % SEQSPACE = x.toNat
                      ∧ ∀ j < k, (first.toNat + j) % SEQSPACE ≠ last.toNat then 1 else 0⟩ }

/-- `SEQ.INRANGE` in the two-case form (41_sequence_modulo_comparator.md R79; derived), and 0 for an operand outside
`[0, S)`. -/
def Obligations.SeqInrangeHasTheTwoCaseForm : Prop :=
  ∀ (first last x : Word) (s : State),
    exec (.seqInrange first last x) s =
      .next { s with
        outputs := [],
        response := some ⟨.leafResult,
          if first.toNat < SEQSPACE ∧ last.toNat < SEQSPACE ∧ x.toNat < SEQSPACE
              ∧ (if first.toNat ≤ last.toNat then first.toNat ≤ x.toNat ∧ x.toNat ≤ last.toNat
                 else first.toNat ≤ x.toNat ∨ x.toNat ≤ last.toNat) then 1 else 0⟩ }

/-- With `S = 2W`, every sequence number is either in the receiver's acceptance range or among the `W` just before it, and
never both (41_sequence_modulo_comparator.md R80; derived). -/
def Obligations.EveryNumberIsNewOrOld : Prop :=
  ∀ (r : ReceiverState) (x : Word), r.expectedseqnum.toNat < SEQSPACE → x.toNat < SEQSPACE →
    (acceptable r x = true ↔
      seqInrange (seqSub r.expectedseqnum.toNat WINDOWSIZE) (seqSub r.expectedseqnum.toNat 1) x.toNat = false)

/-! ## U2: sender -/

/-- `SND.INIT` (42_sender_window_fsm.md R83): its encoding with every operand field ignored; the reset values, `TIMER_STOP`
if the timer was armed, nothing else. -/
def Obligations.SndInitRestoresTheSender : Prop :=
  (∀ w : CmdWord, opcodeField w = 0x8#4 → decode w = .ok .sndInit)
    ∧ SenderResetRows State.reset.sender
    ∧ ∀ s : State,
        exec .sndInit s =
          .next { s with
            sender := State.reset.sender,
            outputs := if s.sender.timer_armed then [.timerStop] else [],
            response := some ⟨.initDone, 0⟩ }

/-- `SND.SUBMIT` into a full window (42_sender_window_fsm.md R84): one strobe, response 0x2, no state change. -/
def Obligations.SubmitIsRejectedWhenFull : Prop :=
  ∀ (m : Message) (s : State), ¬ (s.sender.windowcount.toNat + s.sender.ackcount.toNat < WINDOWSIZE) →
    exec (.sndSubmit m) s =
      .next { s with outputs := [.evt .windowFull], response := some ⟨.submitWindowFull, 0⟩ }

/-- `SND.SUBMIT` accepted (42_sender_window_fsm.md R85): the packet, where it is inserted, every register, the outputs in
their order, and that every other slot, the receiver and the stream stay. -/
def Obligations.SubmitIsAcceptedBelowFull : Prop :=
  ∀ (m : Message) (s : State), s.sender.windowcount.toNat + s.sender.ackcount.toNat < WINDOWSIZE →
    let p : Packet :=
      ⟨s.sender.nextseqnum.setWidth 32, NOTINUSE,
        BitVec.ofNat 32 (checksumValue (s.sender.nextseqnum.setWidth 32) NOTINUSE m), m⟩
    let last := (s.sender.windowlast.toNat + 1) % WINDOWSIZE
    ∃ t, exec (.sndSubmit m) s = .next t
      ∧ t.sender.windowlast.toNat = last
      ∧ memRead t.sender.snd_win last = ⟨p, false⟩
      ∧ (∀ i < WINDOWSIZE, i ≠ last → memRead t.sender.snd_win i = memRead s.sender.snd_win i)
      ∧ t.sender.windowcount.toNat = s.sender.windowcount.toNat + 1
      ∧ t.sender.windowfirst = s.sender.windowfirst ∧ t.sender.ackcount = s.sender.ackcount
      ∧ t.sender.nextseqnum.toNat = (s.sender.nextseqnum.toNat + 1) % SEQSPACE
      ∧ (if s.sender.windowcount.toNat = 0 then t.sender.timer_armed = true ∧ t.outputs = [.tx p, .timerStart]
         else t.sender.timer_armed = s.sender.timer_armed ∧ t.outputs = [.tx p])
      ∧ t.response = some ⟨.submitAccepted, 0⟩ ∧ t.receiver = s.receiver ∧ t.inputs = s.inputs

/-- The corruption test of `SND.PKT` (42_sender_window_fsm.md R87): a corrupted packet does nothing but answer 0x3; every
uncorrupted one raises `ACK_RX` first, and of such a packet only `acknum` matters. -/
def Obligations.CorruptedAckIsIgnored : Prop :=
  ∀ (p : Packet) (s : State),
    (corrupted p = true →
        exec (.sndPkt p) s = .next { s with outputs := [], response := some ⟨.ackCorrupt, 0⟩ })
      ∧ (corrupted p = false → ∃ t rest, exec (.sndPkt p) s = .next t ∧ t.outputs = .evt .ackRx :: rest)
      ∧ (corrupted p = false → ∀ q : Packet, corrupted q = false → q.acknum = p.acknum →
          exec (.sndPkt q) s = exec (.sndPkt p) s)

/-- The three duplicate outcomes (42_sender_window_fsm.md R88, R89, R90) are one (R91): `ACK_RX`, response 0x4, no state
change. -/
def Obligations.DuplicateAckIsIgnored : Prop :=
  ∀ (p : Packet) (s : State), corrupted p = false →
    (s.sender.windowcount.toNat + s.sender.ackcount.toNat = 0
      ∨ seqInrange (seqFirst s.sender).toNat (seqLast s.sender).toNat p.acknum.toNat = false
      ∨ (memRead s.sender.snd_win
            (s.sender.windowfirst.toNat + seqSub p.acknum.toNat (seqFirst s.sender).toNat)).acked = true) →
    exec (.sndPkt p) s = .next { s with outputs := [.evt .ackRx], response := some ⟨.ackDuplicate, 0⟩ }

/-- An uncorrupted acknowledgment is accepted as new exactly when some live slot holds the number it names and is not
acknowledged (42_sender_window_fsm.md R88 to R92, 70_reset_and_hazards.md R152; derived). -/
def Obligations.AckIsNewExactlyForAnUnackedLiveNumber : Prop :=
  ∀ (p : Packet) (s : State), SenderInvariant s.sender → corrupted p = false →
    ∃ t, exec (.sndPkt p) s = .next t
      ∧ ((t.response = some ⟨.ackNew, 0⟩ ∨ t.response = some ⟨.ackNewSlide, 0⟩) ↔
          ∃ k < liveCount s.sender,
            (liveSlot s.sender k).pkt.seqnum = p.acknum ∧ (liveSlot s.sender k).acked = false)

/-- A new acknowledgment of a live slot that is not the oldest marks it, moves the counts by one, restarts the timer, and
slides nothing (42_sender_window_fsm.md R92, R93, R94; derived). -/
def Obligations.NewAckOfALaterSlotMarksIt : Prop :=
  ∀ (p : Packet) (s : State) (k : Nat), SenderInvariant s.sender → corrupted p = false →
    0 < k → k < liveCount s.sender →
    (liveSlot s.sender k).pkt.seqnum = p.acknum → (liveSlot s.sender k).acked = false →
    ∃ t, exec (.sndPkt p) s = .next t
      ∧ memRead t.sender.snd_win (windowIndex s.sender k) = ⟨(liveSlot s.sender k).pkt, true⟩
      ∧ (∀ i < WINDOWSIZE, i ≠ windowIndex s.sender k → memRead t.sender.snd_win i = memRead s.sender.snd_win i)
      ∧ t.sender.windowfirst = s.sender.windowfirst ∧ t.sender.windowlast = s.sender.windowlast
      ∧ t.sender.nextseqnum = s.sender.nextseqnum
      ∧ t.sender.ackcount.toNat = s.sender.ackcount.toNat + 1
      ∧ t.sender.windowcount.toNat + 1 = s.sender.windowcount.toNat
      ∧ t.sender.timer_armed = true
      ∧ t.outputs = [.evt .ackRx, .evt .newAck, .timerStop, .timerStart]
      ∧ t.response = some ⟨.ackNew, 0⟩ ∧ t.receiver = s.receiver ∧ t.inputs = s.inputs

/-- A new acknowledgment of the oldest live slot slides the window past it and past every acknowledged slot that follows it
without a gap, no further (42_sender_window_fsm.md R92, R93, R94; derived). -/
def Obligations.NewAckOfTheOldestSlotSlides : Prop :=
  ∀ (p : Packet) (s : State), SenderInvariant s.sender → corrupted p = false →
    0 < liveCount s.sender → p.acknum = seqFirst s.sender →
    ∃ n t, 1 ≤ n ∧ n ≤ liveCount s.sender
      ∧ (∀ j < n, 1 ≤ j → (liveSlot s.sender j).acked = true)
      ∧ (n < liveCount s.sender → (liveSlot s.sender n).acked = false)
      ∧ exec (.sndPkt p) s = .next t
      ∧ memRead t.sender.snd_win s.sender.windowfirst.toNat = ⟨(liveSlot s.sender 0).pkt, true⟩
      ∧ (∀ i < WINDOWSIZE, i ≠ s.sender.windowfirst.toNat →
          memRead t.sender.snd_win i = memRead s.sender.snd_win i)
      ∧ t.sender.windowfirst.toNat = (s.sender.windowfirst.toNat + n) % WINDOWSIZE
      ∧ t.sender.windowlast = s.sender.windowlast ∧ t.sender.nextseqnum = s.sender.nextseqnum
      ∧ t.sender.ackcount.toNat + n = s.sender.ackcount.toNat + 1
      ∧ t.sender.windowcount.toNat + 1 = s.sender.windowcount.toNat
      ∧ (if s.sender.windowcount.toNat = 1 then
          t.sender.timer_armed = false ∧ t.outputs = [.evt .ackRx, .evt .newAck, .timerStop]
         else t.sender.timer_armed = true ∧ t.outputs = [.evt .ackRx, .evt .newAck, .timerStop, .timerStart])
      ∧ t.response = some ⟨.ackNewSlide, 0⟩ ∧ t.receiver = s.receiver ∧ t.inputs = s.inputs

/-- A data packet given to `SND.PKT` raises `ACK_RX` and is ignored as a duplicate, in every state (30_encoding.md R60,
70_reset_and_hazards.md R161; derived). -/
def Obligations.DataPacketAtTheSenderIsADuplicate : Prop :=
  ∀ (p : Packet) (s : State), p.acknum = NOTINUSE → corrupted p = false →
    exec (.sndPkt p) s = .next { s with outputs := [.evt .ackRx], response := some ⟨.ackDuplicate, 0⟩ }

/-- `SND.TIMEOUT` with the timer not armed (42_sender_window_fsm.md R96): response 0x9, no output, no state change. -/
def Obligations.SpuriousTimeoutIsDiscarded : Prop :=
  ∀ s : State, s.sender.timer_armed = false →
    exec .sndTimeout s = .next { s with outputs := [], response := some ⟨.timeoutSpurious, 0⟩ }

/-- `SND.TIMEOUT` with the timer armed (42_sender_window_fsm.md R95): the first live slot not acknowledged, oldest first, is
retransmitted bit for bit, the timer re-armed, and no other register and no slot changes. -/
def Obligations.TimeoutRetransmitsTheOldestUnacked : Prop :=
  ∀ (s : State) (k : Nat), s.sender.timer_armed = true →
    k < s.sender.windowcount.toNat + s.sender.ackcount.toNat →
    (memRead s.sender.snd_win (s.sender.windowfirst.toNat + k)).acked = false →
    (∀ j < k, (memRead s.sender.snd_win (s.sender.windowfirst.toNat + j)).acked = true) →
    exec .sndTimeout s =
      .next { s with
        outputs :=
          [.tx (memRead s.sender.snd_win (s.sender.windowfirst.toNat + k)).pkt, .evt .retransmit, .timerStart],
        response := some ⟨.timeoutRetransmit, 0⟩ }

/-- `SND.TIMEOUT` with the timer armed and no live slot unacknowledged (42_sender_window_fsm.md R97): response 0x8, the timer
left stopped, no output. -/
def Obligations.TimeoutWithNothingToRetransmit : Prop :=
  ∀ s : State, s.sender.timer_armed = true →
    (∀ k < s.sender.windowcount.toNat + s.sender.ackcount.toNat,
      (memRead s.sender.snd_win (s.sender.windowfirst.toNat + k)).acked = true) →
    exec .sndTimeout s =
      .next { s with
        sender := { s.sender with timer_armed := false },
        outputs := [], response := some ⟨.timeoutNothing, 0⟩ }

/-- In a good state a timeout of an armed timer always retransmits the packet at `windowfirst` (42_sender_window_fsm.md R95,
70_reset_and_hazards.md R153, R155; derived). -/
def Obligations.GoodTimeoutRetransmitsTheFirstSlot : Prop :=
  ∀ s : State, SenderInvariant s.sender → s.sender.timer_armed = true →
    exec .sndTimeout s =
      .next { s with
        outputs := [.tx (memRead s.sender.snd_win s.sender.windowfirst.toNat).pkt, .evt .retransmit, .timerStart],
        response := some ⟨.timeoutRetransmit, 0⟩ }

/-- The sender as a three-state machine (42_sender_window_fsm.md R99; derived): how `L` moves with each outcome, and that
the timer is stopped exactly when the window is empty. -/
def Obligations.WindowPhaseMovesAsTheTableSays : Prop :=
  ∀ (s t : State) (i : Instr) (c : RspCode) (v : Word), SenderInvariant s.sender → exec i s = .next t →
    t.response = some ⟨c, v⟩ →
    (windowPhase t.sender = .empty ↔ t.sender.timer_armed = false)
      ∧ (if i = .sndInit then liveCount t.sender = 0
         else if c = .submitAccepted then liveCount t.sender = liveCount s.sender + 1 ∧ windowPhase s.sender ≠ .full
         else if c = .ackNewSlide then liveCount t.sender < liveCount s.sender
         else liveCount t.sender = liveCount s.sender)

/-! ## U3: receiver -/

/-- `RCV.INIT` (43_receiver_reorder_fsm.md R105): its encoding with every operand field ignored; the reset values, the
whole buffer included, no output, nothing else. -/
def Obligations.RcvInitRestoresTheReceiver : Prop :=
  (∀ w : CmdWord, opcodeField w = 0xC#4 → decode w = .ok .rcvInit)
    ∧ ReceiverResetRows State.reset.receiver
    ∧ ∀ s : State,
        exec .rcvInit s =
          .next { s with receiver := State.reset.receiver, outputs := [], response := some ⟨.initDone, 0⟩ }

/-- A corrupted packet at the receiver (43_receiver_reorder_fsm.md R107): response 0xA, no output, no event, no state change. -/
def Obligations.CorruptedDataIsDropped : Prop :=
  ∀ (p : Packet) (s : State), corrupted p = true →
    exec (.rcvPkt p) s = .next { s with outputs := [], response := some ⟨.dataCorrupt, 0⟩ }

/-- Every uncorrupted packet at the receiver is acknowledged first, in every state (43_receiver_reorder_fsm.md R108): the
event, then the acknowledgment with the raw `seqnum` echoed and the counter's old value as its own number; the counter
advances by one. -/
def Obligations.EveryUncorruptedPacketIsAcknowledged : Prop :=
  ∀ (p : Packet) (s : State), corrupted p = false →
    ∃ t rest, exec (.rcvPkt p) s = .next t
      ∧ t.outputs = [.evt .dataRx, .tx (writtenAck s.receiver.b_nextseqnum p.seqnum)] ++ rest
      ∧ transmitted rest = []
      ∧ t.receiver.b_nextseqnum.toNat = (s.receiver.b_nextseqnum.toNat + 1) % SEQSPACE

/-- An uncorrupted packet out of range (43_receiver_reorder_fsm.md R110): acknowledged as R108 says, with the raw `seqnum`
echoed, and nothing else but the counter changes. -/
def Obligations.OutOfRangeDataIsAcknowledgedOnly : Prop :=
  ∀ (p : Packet) (s : State), corrupted p = false → ¬ InAcceptanceRange s.receiver p.seqnum →
    ∃ t, exec (.rcvPkt p) s = .next t
      ∧ t.receiver.b_nextseqnum.toNat = (s.receiver.b_nextseqnum.toNat + 1) % SEQSPACE
      ∧ t.receiver.expectedseqnum = s.receiver.expectedseqnum ∧ t.receiver.rcv_base = s.receiver.rcv_base
      ∧ t.receiver.rcv_buf = s.receiver.rcv_buf
      ∧ t.outputs = [.evt .dataRx, .tx (writtenAck s.receiver.b_nextseqnum p.seqnum)]
      ∧ t.response = some ⟨.dataOutOfRange, 0⟩ ∧ t.sender = s.sender ∧ t.inputs = s.inputs

/-- An uncorrupted in-range packet that is not the expected one (43_receiver_reorder_fsm.md R111, R113): acknowledged, stored
whole at `seqnum mod W`, nothing delivered. -/
def Obligations.OutOfOrderDataIsBuffered : Prop :=
  ∀ (p : Packet) (s : State), corrupted p = false → InAcceptanceRange s.receiver p.seqnum →
    p.seqnum.toNat ≠ s.receiver.expectedseqnum.toNat →
    ∃ t, exec (.rcvPkt p) s = .next t
      ∧ memRead t.receiver.rcv_buf (p.seqnum.toNat % WINDOWSIZE) = p
      ∧ (∀ i < WINDOWSIZE, i ≠ p.seqnum.toNat % WINDOWSIZE →
          memRead t.receiver.rcv_buf i = memRead s.receiver.rcv_buf i)
      ∧ t.receiver.b_nextseqnum.toNat = (s.receiver.b_nextseqnum.toNat + 1) % SEQSPACE
      ∧ t.receiver.expectedseqnum = s.receiver.expectedseqnum ∧ t.receiver.rcv_base = s.receiver.rcv_base
      ∧ t.outputs = [.evt .dataRx, .tx (writtenAck s.receiver.b_nextseqnum p.seqnum)]
      ∧ t.response = some ⟨.dataBuffered, 0⟩ ∧ t.sender = s.sender ∧ t.inputs = s.inputs

/-- The expected packet (43_receiver_reorder_fsm.md R112): stored, and the whole contiguous run from the buffer base is
delivered in order, no more; the base, `expectedseqnum` and the result move with it. The hypothesis on `rcv_base` is
20_memory.md R35. -/
def Obligations.ExpectedDataDeliversTheRun : Prop :=
  ∀ (p : Packet) (s : State), corrupted p = false → s.receiver.expectedseqnum.toNat < SEQSPACE →
    s.receiver.rcv_base.toNat = s.receiver.expectedseqnum.toNat % WINDOWSIZE →
    p.seqnum.toNat = s.receiver.expectedseqnum.toNat →
    let e := s.receiver.expectedseqnum.toNat
    let base := s.receiver.rcv_base.toNat
    ∃ n t, 1 ≤ n ∧ n ≤ WINDOWSIZE ∧ exec (.rcvPkt p) s = .next t
      ∧ memRead t.receiver.rcv_buf base = p
      ∧ (∀ i < WINDOWSIZE, i ≠ base → memRead t.receiver.rcv_buf i = memRead s.receiver.rcv_buf i)
      ∧ (∀ j < n, (memRead t.receiver.rcv_buf (base + j)).seqnum.toNat = (e + j) % SEQSPACE)
      ∧ (n < WINDOWSIZE → (memRead t.receiver.rcv_buf (base + n)).seqnum.toNat ≠ (e + n) % SEQSPACE)
      ∧ t.receiver.expectedseqnum.toNat = (e + n) % SEQSPACE
      ∧ t.receiver.rcv_base.toNat = (base + n) % WINDOWSIZE
      ∧ t.receiver.b_nextseqnum.toNat = (s.receiver.b_nextseqnum.toNat + 1) % SEQSPACE
      ∧ t.outputs = [.evt .dataRx, .tx (writtenAck s.receiver.b_nextseqnum p.seqnum)]
          ++ (List.range n).map (fun j => .deliver (memRead t.receiver.rcv_buf (base + j)).payload)
      ∧ t.response = some ⟨.dataDelivered, BitVec.ofNat 32 n⟩ ∧ t.sender = s.sender ∧ t.inputs = s.inputs

/-- A second copy of an in-range packet that waits in the buffer is acknowledged again and replaces the first
(43_receiver_reorder_fsm.md R117; derived). -/
def Obligations.SecondCopyReplacesTheFirst : Prop :=
  ∀ (p q : Packet) (s : State), corrupted p = false → corrupted q = false → q.seqnum = p.seqnum →
    InAcceptanceRange s.receiver p.seqnum → p.seqnum.toNat ≠ s.receiver.expectedseqnum.toNat →
    ∃ t u, exec (.rcvPkt p) s = .next t ∧ exec (.rcvPkt q) t = .next u
      ∧ t.response = some ⟨.dataBuffered, 0⟩ ∧ u.response = some ⟨.dataBuffered, 0⟩
      ∧ memRead u.receiver.rcv_buf (p.seqnum.toNat % WINDOWSIZE) = q
      ∧ transmitted t.outputs = [writtenAck s.receiver.b_nextseqnum p.seqnum]
      ∧ transmitted u.outputs = [writtenAck t.receiver.b_nextseqnum p.seqnum]

/-- The bounds of `RCV.PKT` (43_receiver_reorder_fsm.md R116), in every state: at most one packet sent, at most `W` messages
delivered, no slot but the one of `seqnum` written, and that one only for a number within `W` of `expectedseqnum`. -/
def Obligations.ReceiverWorkIsBounded : Prop :=
  ∀ (p : Packet) (s t : State), exec (.rcvPkt p) s = .next t →
    (transmitted t.outputs).length ≤ 1 ∧ (deliveries t.outputs).length ≤ WINDOWSIZE
      ∧ (∀ i < WINDOWSIZE, i ≠ p.seqnum.toNat % WINDOWSIZE →
          memRead t.receiver.rcv_buf i = memRead s.receiver.rcv_buf i)
      ∧ (¬ InAcceptanceRange s.receiver p.seqnum → t.receiver.rcv_buf = s.receiver.rcv_buf)

/-! ## Every command -/

/-- The engine that owns a state is the only one whose commands change it, for any command word whatever (10_state.md R12,
30_encoding.md R46; derived). -/
def Obligations.OnlyTheOwningUnitChangesAnEngine : Prop :=
  ∀ (s t : State) (w : CmdWord) (rest : List Input), s.inputs = .command w :: rest → step s = .next t →
    (unitField w ≠ 2#2 → t.sender = s.sender) ∧ (unitField w ≠ 3#2 → t.receiver = s.receiver)

/-- A command of U2 and a command of U3 commute: the same states, outputs and responses in either order (10_state.md R12,
20_memory.md R41; derived). -/
def Obligations.SenderAndReceiverCommandsCommute : Prop :=
  ∀ (s : State) (i j : Instr), ofUnit 2#2 i → ofUnit 3#2 j →
    ∃ t u t' u', exec i s = .next t ∧ exec j t = .next u ∧ exec j s = .next t' ∧ exec i t' = .next u'
      ∧ u.sender = u'.sender ∧ u.receiver = u'.receiver
      ∧ t.outputs = u'.outputs ∧ t.response = u'.response ∧ u.outputs = t'.outputs ∧ u.response = t'.response

/-- The invariants of 70_reset_and_hazards.md R150 to R157 hold in every state a step leads to from a state where they hold
(derived). -/
def Obligations.EveryStepKeepsTheInvariants : Prop :=
  ∀ s t : State, Good s → step s = .next t → Good t

/-- The invariants hold at reset (70_reset_and_hazards.md section 2; derived). -/
def Obligations.ResetMeetsTheInvariants : Prop := Good State.reset

/-- A flag is set only by an accepted new acknowledgment, and cleared only by the insertion of a packet into its slot, by
`SND.INIT` and by reset (10_state.md R26; derived); a stored packet changes only in the last three ways (R19). -/
def Obligations.SlotsChangeOnlyAsStated : Prop :=
  ∀ (s t : State) (i : Nat), step s = .next t → i < WINDOWSIZE →
    let before := memRead s.sender.snd_win i
    let after := memRead t.sender.snd_win i
    let inserted := t.response = some ⟨.submitAccepted, 0⟩ ∧ t.sender.windowlast.toNat = i
    let reinitialised :=
      (∃ rest, s.inputs = .reset :: rest) ∨ (∃ w rest, s.inputs = .command w :: rest ∧ decode w = .ok .sndInit)
    (before.acked = false → after.acked = true →
        t.response = some ⟨.ackNew, 0⟩ ∨ t.response = some ⟨.ackNewSlide, 0⟩)
      ∧ (before.acked = true → after.acked = false → inserted ∨ reinitialised)
      ∧ (after.pkt ≠ before.pkt → inserted ∨ reinitialised)

/-- `nextseqnum` advances by one exactly with an accepted submission (10_state.md R17), `expectedseqnum` by the number of
messages delivered (R21), `b_nextseqnum` by one exactly with each acknowledgment sent (R23), and apart from the two
initialisations nothing else changes them (derived). -/
def Obligations.SequenceRegistersAdvanceOnlyAsStated : Prop :=
  ∀ (s t : State) (i : Instr), exec i s = .next t → i ≠ .sndInit → i ≠ .rcvInit →
    (if t.response = some ⟨.submitAccepted, 0⟩ then
        t.sender.nextseqnum.toNat = (s.sender.nextseqnum.toNat + 1) % SEQSPACE
      else t.sender.nextseqnum = s.sender.nextseqnum)
    ∧ (if deliveries t.outputs = [] then t.receiver.expectedseqnum = s.receiver.expectedseqnum
      else t.receiver.expectedseqnum.toNat
        = (s.receiver.expectedseqnum.toNat + (deliveries t.outputs).length) % SEQSPACE)
    ∧ (if ofUnit 3#2 i ∧ transmitted t.outputs ≠ [] then
        t.receiver.b_nextseqnum.toNat = (s.receiver.b_nextseqnum.toNat + 1) % SEQSPACE
      else t.receiver.b_nextseqnum = s.receiver.b_nextseqnum)

/-- The table of 60_exceptions.md R122: how often each strobe fires, by the response. -/
def Obligations.StrobesFollowTheResponse : Prop :=
  ∀ (s t : State) (i : Instr) (c : RspCode) (v : Word), exec i s = .next t → t.response = some ⟨c, v⟩ →
    strobes .windowFull t.outputs = (if c = .submitWindowFull then 1 else 0)
      ∧ strobes .ackRx t.outputs = (if c = .ackDuplicate ∨ c = .ackNew ∨ c = .ackNewSlide then 1 else 0)
      ∧ strobes .newAck t.outputs = (if c = .ackNew ∨ c = .ackNewSlide then 1 else 0)
      ∧ strobes .retransmit t.outputs = (if c = .timeoutRetransmit then 1 else 0)
      ∧ strobes .dataRx t.outputs
          = (if c = .dataOutOfRange ∨ c = .dataBuffered ∨ c = .dataDelivered then 1 else 0)

/-- The output order of each command (42_sender_window_fsm.md R102, 43_receiver_reorder_fsm.md R115; derived): its records
have one of these shapes, in every state. -/
def Obligations.OutputsComeInTheOrderOfTheRules : Prop :=
  ∀ (s t : State) (i : Instr), exec i s = .next t →
    match i with
    | .chkCompute _ _ _ => t.outputs = []
    | .chkVerify _ => t.outputs = []
    | .seqAdd _ _ => t.outputs = []
    | .seqSub _ _ => t.outputs = []
    | .seqInrange _ _ _ => t.outputs = []
    | .sndInit => t.outputs = [] ∨ t.outputs = [.timerStop]
    | .sndSubmit _ =>
      t.outputs = [.evt .windowFull] ∨ ∃ p, t.outputs = [.tx p] ∨ t.outputs = [.tx p, .timerStart]
    | .sndPkt _ =>
      t.outputs = [] ∨ t.outputs = [.evt .ackRx] ∨ t.outputs = [.evt .ackRx, .evt .newAck, .timerStop]
        ∨ t.outputs = [.evt .ackRx, .evt .newAck, .timerStop, .timerStart]
    | .sndTimeout => t.outputs = [] ∨ ∃ p, t.outputs = [.tx p, .evt .retransmit, .timerStart]
    | .rcvInit => t.outputs = []
    | .rcvPkt _ => t.outputs = [] ∨ ∃ (p : Packet) (ms : List Message),
        t.outputs = [.evt .dataRx, .tx p] ++ ms.map .deliver

/-- The responses (30_encoding.md R57; derived): the number of each code, that every command gives one of its own codes, and
the result that goes with it: 0 but for 0xE, and for 0xD the number of messages delivered, 1 to `W`. The premise is 70_reset_and_hazards.md R157, stated as an invariant of its own. -/
def Obligations.ResultsFollowTheResponse : Prop :=
  ∀ (s t : State) (i : Instr) (c : RspCode) (v : Word), ReceiverInvariant s.receiver → exec i s = .next t →
    t.response = some ⟨c, v⟩ →
    c ∈ responsesOf i
      ∧ rspCodeBits c =
          (match c with
            | .initDone => 0x0#4
            | .submitAccepted => 0x1#4
            | .submitWindowFull => 0x2#4
            | .ackCorrupt => 0x3#4
            | .ackDuplicate => 0x4#4
            | .ackNew => 0x5#4
            | .ackNewSlide => 0x6#4
            | .timeoutRetransmit => 0x7#4
            | .timeoutNothing => 0x8#4
            | .timeoutSpurious => 0x9#4
            | .dataCorrupt => 0xA#4
            | .dataOutOfRange => 0xB#4
            | .dataBuffered => 0xC#4
            | .dataDelivered => 0xD#4
            | .leafResult => 0xE#4
            | .illegal => 0xF#4)
      ∧ (c ≠ .leafResult → c ≠ .dataDelivered → v = 0)
      ∧ (c = .dataDelivered → v.toNat = (deliveries t.outputs).length ∧ 1 ≤ v.toNat ∧ v.toNat ≤ WINDOWSIZE)

/-- The timer port (70_reset_and_hazards.md R155; derived): no command starts a timer that is armed or stops one that is
stopped (an accepted timeout counts as a stop), and the shadow bit is the timer's status after it. -/
def Obligations.TimerPortAlternates : Prop :=
  ∀ (s t : State) (i : Instr), SenderInvariant s.sender → exec i s = .next t →
    timerPortAfter (if i = .sndTimeout then false else s.sender.timer_armed) t.outputs = some t.sender.timer_armed

/-- No rule reads a sender slot that is not live (70_reset_and_hazards.md R158; derived): two states that differ only in such
slots give the same outputs and responses, and still differ only in such slots. -/
def Obligations.DeadSlotsAreNeverRead : Prop :=
  ∀ (s s' t t' : State) (i : Instr), SenderInvariant s.sender → SenderInvariant s'.sender →
    SameLiveWindow s.sender s'.sender → s.receiver = s'.receiver →
    exec i s = .next t → exec i s' = .next t' →
    t.outputs = t'.outputs ∧ t.response = t'.response ∧ SameLiveWindow t.sender t'.sender ∧ t.receiver = t'.receiver

/-- The debug read port (20_memory.md R40): `{acked, pkt}` of a sender slot, `{0, pkt}` of a receiver slot, zeros
for an index not below `W`; and the status outputs beside it: each `st_` output is its register, `st_snd_empty` is `L = 0`
and `st_snd_full` is `L = W` (10_state.md R26, R27). -/
def Obligations.DebugPortShowsTheSlots : Prop :=
  (∀ s : State, statusOutputs s =
      { st_windowfirst := s.sender.windowfirst
        st_windowlast := s.sender.windowlast
        st_windowcount := s.sender.windowcount
        st_ackcount := s.sender.ackcount
        st_nextseqnum := s.sender.nextseqnum
        st_timer_armed := s.sender.timer_armed
        st_expectedseqnum := s.receiver.expectedseqnum
        st_rcv_base := s.receiver.rcv_base
        st_b_nextseqnum := s.receiver.b_nextseqnum
        st_snd_empty := decide (s.sender.windowcount.toNat + s.sender.ackcount.toNat = 0)
        st_snd_full := decide (s.sender.windowcount.toNat + s.sender.ackcount.toNat = WINDOWSIZE) })
  ∧ ∀ (s : State) (idx : BitVec IDX_W),
    (WINDOWSIZE ≤ idx.toNat → debugSlot s .snd idx = 0 ∧ debugSlot s .rcv idx = 0)
      ∧ (idx.toNat < WINDOWSIZE →
          (debugSlot s .snd idx).getLsbD PKT_W = (memRead s.sender.snd_win idx.toNat).acked
            ∧ (debugSlot s .snd idx).setWidth PKT_W = packetToBits (memRead s.sender.snd_win idx.toNat).pkt
            ∧ (debugSlot s .rcv idx).getLsbD PKT_W = false
            ∧ (debugSlot s .rcv idx).setWidth PKT_W = packetToBits (memRead s.receiver.rcv_buf idx.toNat))

/-! ## The link -/

/-- The end-to-end property (70_reset_and_hazards.md R159; derived): on a link built as 60_exceptions.md R136 says, both
ends reset with the channel empty, an environment that keeps its contracts, and every corruption detected, the messages
delivered are at every moment a prefix of the messages accepted. The environment is assumption log 11's. -/
def Obligations.LinkDeliversInOrderExactlyOnce : Prop :=
  ∀ (actions : List LinkAction) (l : Link), linkRun actions initialLink = some l →
    allCorruptionDetected actions initialLink = true → l.delivered <+: l.accepted

/-- Under the timer contract (60_exceptions.md R131) and whatever the channel does, the block never misuses the timer
service, and the shadow bit is its status (70_reset_and_hazards.md R155; derived): so it is at first, every action of the
environment keeps it so from every link where it is so, and so it is on every run. -/
def Obligations.LinkNeverMisusesTheTimer : Prop :=
  TimerInStep initialLink
    ∧ (∀ (l l' : Link) (x : LinkAction), TimerInStep l → linkAct l x = some l' → TimerInStep l')
    ∧ ∀ (actions : List LinkAction) (l : Link), linkRun actions initialLink = some l →
        l.timer ≠ .misused ∧ (l.timer = .armed ↔ l.blockA.sender.timer_armed = true)

/-- The invariant behind the end-to-end property (70_reset_and_hazards.md R159; derived; the environment is assumption log
11's): it holds at first, every action of the environment whose corruption is detected keeps it from every link where it
holds, and it says that the messages delivered are a prefix of the messages accepted. -/
def Obligations.LinkInvariantIsKept : Prop :=
  LinkInvariant initialLink
    ∧ (∀ (l l' : Link) (x : LinkAction), LinkInvariant l → corruptionDetected l x = true → linkAct l x = some l' →
        LinkInvariant l')
    ∧ ∀ l : Link, LinkInvariant l → l.delivered <+: l.accepted

/-! ## Any parameters -/

/-- For every parameter record, a command word that is no reserved opcode and its operation and operand block determine each
other (00_scope.md R7, R11, 30_encoding.md R46, R47; derived). -/
def Obligations.EveryPayloadSizeRoundTrips : Prop :=
  (∀ (c : Params) (cmd : CommandOf c.payloadBytes), decodeWith c (encodeWith c cmd) = .ok cmd)
    ∧ ∀ (c : Params) (w : BitVec c.cmdW) (cmd : CommandOf c.payloadBytes), decodeWith c w = .ok cmd → encodeWith c cmd = w
end

