-- ==== Sys2Proof/Laws/Parametric.lean ====
section
/-! SUPPORT. The machine behind the host's interface is the parametric block at the defaults of 00_scope.md section 4:
state, decoder, encoder, reset and step. -/

namespace Sys2Proof.Machine

open Config

/-! ## Small lemmas -/

@[simp] theorem blockOf_sender (s : State) : (blockOf s).sender = s.sender := rfl
@[simp] theorem blockOf_receiver (s : State) : (blockOf s).receiver = s.receiver := rfl
@[simp] theorem stateAfter_sender (s : State) (a : AnswerOf params) : (stateAfter s a).sender = a.block.sender := rfl
@[simp] theorem stateAfter_receiver (s : State) (a : AnswerOf params) : (stateAfter s a).receiver = a.block.receiver := rfl
@[simp] theorem stateAfter_inputs (s : State) (a : AnswerOf params) : (stateAfter s a).inputs = s.inputs := rfl
@[simp] theorem stateAfter_outputs (s : State) (a : AnswerOf params) : (stateAfter s a).outputs = a.outputs := rfl
@[simp] theorem stateAfter_response (s : State) (a : AnswerOf params) : (stateAfter s a).response = some a.response := rfl

section Answers

variable {c : Params} (b : BlockOf c)

@[simp] theorem answerLeaf_block (r : Response) : (answerLeaf b r).block = b := rfl
@[simp] theorem answerLeaf_outputs (r : Response) : (answerLeaf b r).outputs = [] := rfl
@[simp] theorem answerLeaf_response (r : Response) : (answerLeaf b r).response = r := rfl

variable (x : ReactionOf c.payloadBytes (SenderStateOf c.windowSize c.idxW c.cntW c.seqW c.payloadBytes))
variable (y : ReactionOf c.payloadBytes (ReceiverStateOf c.windowSize c.idxW c.seqW c.payloadBytes))

@[simp] theorem answerSender_sender : (answerSender b x).block.sender = x.state := rfl
@[simp] theorem answerSender_receiver : (answerSender b x).block.receiver = b.receiver := rfl
@[simp] theorem answerSender_outputs : (answerSender b x).outputs = x.outputs := rfl
@[simp] theorem answerSender_response : (answerSender b x).response = x.response := rfl
@[simp] theorem answerReceiver_sender : (answerReceiver b y).block.sender = b.sender := rfl
@[simp] theorem answerReceiver_receiver : (answerReceiver b y).block.receiver = y.state := rfl
@[simp] theorem answerReceiver_outputs : (answerReceiver b y).outputs = y.outputs := rfl
@[simp] theorem answerReceiver_response : (answerReceiver b y).response = y.response := rfl

end Answers

/-- The widths of the record at the defaults are those of `Config`. -/
theorem params_widths :
    params.idxW = IDX_W ∧ params.cntW = CNT_W ∧ params.seqW = SEQ_W ∧ params.pktW = PKT_W ∧ params.cmdW = CMD_W := by
  decide

/-- Reset is the parametric reset at the defaults. -/
theorem blockOf_reset : blockOf State.reset = blockReset params := rfl

/-! ## The opcode map -/

/-- The opcode map reads every operation's opcode back. -/
@[simp] theorem operationAt_opcode (op : Operation) : operationAt op.opcode = .ok op := by cases op <;> rfl

/-- An operation that the map gives has the opcode it was given for. -/
theorem opcode_of_operationAt (opcode : BitVec 4) (op : Operation) (h : operationAt opcode = .ok op) :
    op.opcode = opcode := by
  unfold operationAt at h
  split at h <;> cases h <;> (apply BitVec.eq_of_toNat_eq; simp [Operation.opcode, *])

/-- An instruction's opcode is its operation's. -/
theorem opcodeOf_eq (i : Instr) : opcodeOf i = (operationOf i).opcode := by cases i <;> rfl

/-- The encoder is the parametric encoder at the defaults. -/
theorem encode_eq (i : Instr) : encode i = encodeWith params (commandOf i) := by cases i <;> rfl

/-! ## The step -/

/-- A command of U2 ends alike in both. -/
theorem concludeSender_eq (s : State) (r : Reaction SenderState) :
    concludeSender s r = stateAfter s (answerSender (blockOf s) r) := rfl

/-- A command of U3 ends alike in both. -/
theorem concludeReceiver_eq (s : State) (r : Reaction ReceiverState) :
    concludeReceiver s r = stateAfter s (answerReceiver (blockOf s) r) := rfl

/-- A command of U0 or U1 ends alike in both. -/
theorem conclude_eq (s : State) (r : Response) : conclude s [] r = stateAfter s (answerLeaf (blockOf s) r) := rfl

/-- Every meaning is the parametric block's reaction at the defaults. -/
theorem exec_eq_react (i : Instr) (s : State) :
    exec i s = .next (stateAfter s (react (commandOf i) (blockOf s))) := by
  cases i with
  | chkCompute => exact congrArg Host.Outcome.next (conclude_eq s _)
  | chkVerify => exact congrArg Host.Outcome.next (conclude_eq s _)
  | seqAdd => exact congrArg Host.Outcome.next (conclude_eq s _)
  | seqSub => exact congrArg Host.Outcome.next (conclude_eq s _)
  | seqInrange => exact congrArg Host.Outcome.next (conclude_eq s _)
  | sndInit => exact congrArg Host.Outcome.next (concludeSender_eq s _)
  | sndSubmit => exact congrArg Host.Outcome.next (concludeSender_eq s _)
  | sndPkt => exact congrArg Host.Outcome.next (concludeSender_eq s _)
  | sndTimeout => exact congrArg Host.Outcome.next (concludeSender_eq s _)
  | rcvInit => exact congrArg Host.Outcome.next (concludeReceiver_eq s _)
  | rcvPkt => exact congrArg Host.Outcome.next (concludeReceiver_eq s _)

/-- A block's fields are the slices of its bits (20_memory.md R36). -/
theorem operandPacket_fields (w : CmdWord) :
    (operandPacket w).seqnum = fieldA w ∧ (operandPacket w).acknum = fieldB w ∧ (operandPacket w).checksum = fieldC w
      ∧ (operandPacket w).payload = fieldD w := by
  have hbits (n k i : Nat) (hi : i < n) (hk : k + i < 256) (v : CmdWord) :
      ((v.extractLsb' 4 256).extractLsb' k n).getLsbD i = (v.extractLsb' (4 + k) n).getLsbD i := by
    simp [hi, hk, Nat.add_assoc]
  refine ⟨?_, ?_, ?_, ?_⟩ <;> refine BitVec.eq_of_getLsbD_eq fun i hi => hbits _ _ i hi ?_ w <;>
    simp only [FIELD_W, PAYLOAD_BYTES] at hi <;> omega

/-- The decoder reads the opcode map and keeps the operands the operation uses. -/
theorem decode_eq (w : CmdWord) :
    decode w = (operationAt (opcodeField w)).map fun op => instrOf op (operandPacket w) := by
  obtain ⟨ha, hb, hc, hd⟩ := operandPacket_fields w
  unfold decode operationAt
  split <;> simp [*, Except.map, instrOf]

/-- The operand fields an operation ignores have no effect (30_encoding.md R49). -/
theorem react_instrOf (op : Operation) (p : Packet) (b : BlockOf params) :
    react (commandOf (instrOf op p)) b = react ⟨op, p⟩ b := by cases op <;> rfl

/-- A step on a command word is the parametric step at the defaults. -/
theorem step_eq_stepWith (s : State) (w : CmdWord) (rest : List Input) (h : s.inputs = .command w :: rest) :
    step s = .next (stateAfter { s with inputs := rest } (stepWith params (blockOf s) w)) := by
  have hw : decodeWith params w = (operationAt (opcodeField w)).map fun op => ⟨op, operandPacket w⟩ := by
    unfold decodeWith
    change (match operationAt (opcodeField (n := CMD_W) w) with | .ok op => _ | .error e => _) = _
    cases operationAt (opcodeField (n := CMD_W) w) <;> rfl
  cases ho : operationAt (opcodeField w) with
  | ok op =>
    have hi : decode w = .ok (instrOf op (operandPacket w)) := by rw [decode_eq, ho]; rfl
    have hs : step s = exec (instrOf op (operandPacket w)) { s with inputs := rest } := by simp [step, takeInput, h, hi]
    have hr : stepWith params (blockOf s) w = react ⟨op, operandPacket w⟩ (blockOf s) := by
      unfold stepWith; rw [hw, ho]; rfl
    rw [hs, exec_eq_react, react_instrOf, hr]; rfl
  | error e =>
    have hi : decode w = .error e := by rw [decode_eq, ho]; rfl
    have hs : step s = .next (raiseIllegal { s with inputs := rest }) := by simp [step, takeInput, h, hi]
    have hr : stepWith params (blockOf s) w = answerLeaf (blockOf s) (respond .illegal) := by
      unfold stepWith; rw [hw, ho]; rfl
    rw [hs, hr]; rfl

end Sys2Proof.Machine
end

