-- ==== Sys2Proof/Machine/Text.lean ====
section
/-! DEFINITION. The textual syntax of commands and the pseudo-commands (30_encoding.md R61, R62): one line of characters
to one command. What R61 leaves open (an unknown or repeated operand name, a number too wide for its field, a character
that is not ASCII, a double quote inside a quoted payload) is no command here, and what R62 leaves open (an operand of a
pseudo-command left out) is settled below; see assumption log 12. -/

namespace Sys2Proof.Machine

open Config

/-! ## Words of a line -/

/-- The blank-separated words of a line; blanks inside a quoted string separate nothing. The second argument says whether
a quoted string is open, the third is the word read so far, last character first. -/
def lineWords : List Char → Bool → List Char → List (List Char)
  | [], _, word => if word.isEmpty then [] else [word.reverse]
  | c :: rest, quoted, word =>
    if c = '"' then lineWords rest (!quoted) (c :: word)
    else if c = ' ' && !quoted then
      if word.isEmpty then lineWords rest false [] else word.reverse :: lineWords rest false []
    else lineWords rest quoted (c :: word)

/-- A `name=value` word, cut at its first `=`. -/
def cutAtEquals : List Char → Option (List Char × List Char)
  | [] => none
  | c :: rest => if c = '=' then some ([], rest) else (cutAtEquals rest).map fun nv => (c :: nv.1, nv.2)

/-! ## Numbers and payloads -/

/-- The value of a decimal digit. -/
def decimalDigit (c : Char) : Option Nat :=
  if 48 ≤ c.toNat ∧ c.toNat ≤ 57 then some (c.toNat - 48) else none

/-- The value of a hexadecimal digit. -/
def hexDigit (c : Char) : Option Nat :=
  if 48 ≤ c.toNat ∧ c.toNat ≤ 57 then some (c.toNat - 48)
  else if 65 ≤ c.toNat ∧ c.toNat ≤ 70 then some (c.toNat - 55)
  else if 97 ≤ c.toNat ∧ c.toNat ≤ 102 then some (c.toNat - 87)
  else none

/-- The number a run of digits writes in a base, most significant digit first. -/
def digitsValue (base : Nat) (digit : Char → Option Nat) : List Char → Nat → Option Nat
  | [], n => some n
  | c :: rest, n => (digit c).bind fun d => digitsValue base digit rest (n * base + d)

/-- A number: decimal, `0x` hexadecimal, or `NOTINUSE` (R61). -/
def textNumber : List Char → Option Nat
  | [] => none
  | '0' :: 'x' :: [] => none
  | '0' :: 'x' :: d :: rest => digitsValue 16 hexDigit (d :: rest) 0
  | cs => if cs = "NOTINUSE".toList then some NOTINUSE.toNat else digitsValue 10 decimalDigit cs 0

/-- A number that fits a 32-bit operand. -/
def textWord (cs : List Char) : Option Word :=
  (textNumber cs).bind fun n => if operandWellFormed n then some (BitVec.ofNat FIELD_W n) else none

/-- The bytes of a run of hexadecimal digits, two to a byte. -/
def hexBytes : List Char → Option (List Byte)
  | [] => some []
  | [_] => none
  | h :: l :: rest =>
    (hexDigit h).bind fun hi => (hexDigit l).bind fun lo => (hexBytes rest).map fun bs => BitVec.ofNat 8 (16 * hi + lo) :: bs

/-- The characters of a quoted string after its opening quote, up to the quote that ends the word. R61 gives no escape, so
a double quote inside the string makes it no payload (the model's choice, assumption log 12). -/
def quotedBody : List Char → Option (List Char)
  | [] => none
  | ['"'] => some []
  | c :: rest => if c = '"' then none else (quotedBody rest).map (c :: ·)

/-- The byte of an ASCII character (R61). -/
def asciiByte (c : Char) : Option Byte := if c.toNat < 128 then some (BitVec.ofNat 8 c.toNat) else none

/-- A message written as bytes, which must be exactly `P` of them (R61, 20_memory.md R37). -/
def sizedMessage (bytes : List Byte) : Option Message :=
  if messageBytesWellFormed bytes then some (messageOfBytes bytes) else none

/-- A payload: a quoted string, or `hex:` and hexadecimal digits, `payload[0]` first (R61). -/
def textPayload : List Char → Option Message
  | '"' :: rest => ((quotedBody rest).bind fun cs => cs.mapM asciiByte).bind sizedMessage
  | 'h' :: 'e' :: 'x' :: ':' :: digits => (hexBytes digits).bind sizedMessage
  | _ => none

/-! ## Operands -/

/-- The `name=value` words of a line, whose names must be among those its form has, each at most once. -/
def namedOperands (names : List String) (words : List (List Char)) : Option (List (List Char × List Char)) :=
  (words.mapM cutAtEquals).bind fun ops =>
    if ops.all (fun nv => names.any fun n => n.toList == nv.1) && decide (ops.map (·.1)).Nodup then some ops else none

/-- The number given to a name; an omitted operand is 0 (R61). -/
def numberOperand (ops : List (List Char × List Char)) (name : String) : Option Word :=
  match ops.find? fun nv => nv.1 == name.toList with
  | none => some 0
  | some nv => textWord nv.2

/-- The payload given; an omitted payload is all zero (R61). -/
def payloadOperand (ops : List (List Char × List Char)) : Option Message :=
  match ops.find? fun nv => nv.1 == "payload".toList with
  | none => some 0
  | some nv => textPayload nv.2

/-- The operands `seq`, `ack`, `chk` and `payload` as a packet (R61). -/
def packetOperands (names : List String) (words : List (List Char)) : Option Packet := do
  let ops ← namedOperands names words
  let seqnum ← numberOperand ops "seq"
  let acknum ← numberOperand ops "ack"
  let checksum ← numberOperand ops "chk"
  let payload ← payloadOperand ops
  return ⟨seqnum, acknum, checksum, payload⟩

/-- A well-formed acknowledgment of `n` with own number `own` (R62). -/
def ackCommand (own n : Word) : Instr := .sndPkt (buildPacket own n fillerMessage)

/-- A well-formed data packet numbered `n` (R62). -/
def dataCommand (n : Word) (m : Message) : Instr := .rcvPkt (buildPacket n NOTINUSE m)

/-- The command of a mnemonic and its operand words (R61, R62). R62 does not say what an operand left out of a
pseudo-command means: here `SEQ.INC` without `a` adds to 0, as R61 says of the command it expands to, and `SND.ACK` without
its number and `RCV.DATA` without its number or its payload are no commands, since those are given by their place (the
model's choice, assumption log 12). -/
def assembleWords (mnemonic : List Char) (words : List (List Char)) : Option Instr :=
  if mnemonic = "CHK.COMPUTE".toList then
    (packetOperands ["seq", "ack", "payload"] words).map fun p => .chkCompute p.seqnum p.acknum p.payload
  else if mnemonic = "CHK.VERIFY".toList then (packetOperands ["seq", "ack", "chk", "payload"] words).map .chkVerify
  else if mnemonic = "SEQ.ADD".toList then do
    let ops ← namedOperands ["a", "b"] words
    return .seqAdd (← numberOperand ops "a") (← numberOperand ops "b")
  else if mnemonic = "SEQ.SUB".toList then do
    let ops ← namedOperands ["a", "b"] words
    return .seqSub (← numberOperand ops "a") (← numberOperand ops "b")
  else if mnemonic = "SEQ.INRANGE".toList then do
    let ops ← namedOperands ["first", "last", "x"] words
    return .seqInrange (← numberOperand ops "first") (← numberOperand ops "last") (← numberOperand ops "x")
  else if mnemonic = "SND.INIT".toList then if words.isEmpty then some .sndInit else none
  else if mnemonic = "SND.SUBMIT".toList then
    match words with
    | [] => some (.sndSubmit 0)
    | [d] => (textPayload d).map .sndSubmit
    | _ => none
  else if mnemonic = "SND.PKT".toList then (packetOperands ["seq", "ack", "chk", "payload"] words).map .sndPkt
  else if mnemonic = "SND.TIMEOUT".toList then if words.isEmpty then some .sndTimeout else none
  else if mnemonic = "RCV.INIT".toList then if words.isEmpty then some .rcvInit else none
  else if mnemonic = "RCV.PKT".toList then (packetOperands ["seq", "ack", "chk", "payload"] words).map .rcvPkt
  else if mnemonic = "SEQ.INC".toList then do
    let ops ← namedOperands ["a"] words
    return .seqAdd (← numberOperand ops "a") 1
  else if mnemonic = "SND.ACK".toList then
    match words with
    | n :: rest => do
      let ops ← namedOperands ["seq"] rest
      return ackCommand (← numberOperand ops "seq") (← textWord n)
    | [] => none
  else if mnemonic = "RCV.DATA".toList then
    match words with
    | [n, d] => do return dataCommand (← textWord n) (← textPayload d)
    | _ => none
  else none

/-- One line of text to one command (R61, R62); none where the line is no command. -/
def assemble (line : List Char) : Option Instr :=
  match lineWords line false [] with
  | [] => none
  | mnemonic :: words => assembleWords mnemonic words

end Sys2Proof.Machine
end

