-- ==== Sys2Proof/Tests/Slice0.lean ====
section
/-! SUPPORT. The model's own tests. Expected values come from spec/: the worked words and traces of 95_test_vectors.md, the
examples and corner cases of the rules named, or hand arithmetic from a rule. After them, one witness per statement that
has hypotheses. -/

namespace Sys2Proof.Tests

open Sys2Proof.Machine Sys2Proof.Config

/- One theorem at a time: the kernel evaluations do not run side by side. -/
set_option Elab.async false

/-! ## Helpers -/

/-- `"a"` twenty times, and other one-letter messages, by the letter's byte. -/
def letters (b : Byte) : Message := messageOfBytes (List.replicate 20 b)

/-- The data packet numbered `i` with message `"a"` twenty times, in a sender slot. -/
def numbered (i : Nat) (acked : Bool) : Slot := ⟨buildPacket (BitVec.ofNat 32 i) NOTINUSE (letters 0x61), acked⟩

/-- A sender with `n` live slots from slot 0 on, slot `i` holding number `i`, and these flags; `acks` of them are set. -/
def window (n acks : Nat) (f0 f1 f2 f3 f4 f5 : Bool) : State :=
  { State.reset with
    sender :=
      { windowfirst := 0, windowlast := BitVec.ofNat 3 ((n + 5) % 6), windowcount := BitVec.ofNat 3 (n - acks)
        ackcount := BitVec.ofNat 3 acks, nextseqnum := BitVec.ofNat 4 n, timer_armed := decide (0 < n)
        snd_win := #v[numbered 0 f0, numbered 1 f1, numbered 2 f2, numbered 3 f3, numbered 4 f4, numbered 5 f5] } }

/-- `n` submissions from reset, none acknowledged (the slots beyond hold stale packets). -/
def submitted (n : Nat) : State := window n 0 false false false false false false

/-- A receiver that expects 0 and has buffered 1 to 5. -/
def waiting : State :=
  { State.reset with
    receiver :=
      { State.reset.receiver with
        rcv_buf := #v[emptyRcvSlot, (numbered 1 false).pkt, (numbered 2 false).pkt, (numbered 3 false).pkt,
          (numbered 4 false).pkt, (numbered 5 false).pkt] } }

/-- A well-formed acknowledgment of `n` (30_encoding.md R62). -/
def ack (n : Word) : Packet := buildPacket 1 n fillerMessage

/-- A well-formed data packet (30_encoding.md R62). -/
def data (n : Word) (b : Byte) : Packet := buildPacket n NOTINUSE (letters b)

/-- A packet whose checksum is wrong. -/
def spoiled : Packet := { data 0 0x61 with checksum := 0 }

/-- The next state of an outcome, where it has one. -/
def nextState? (o : Host.Outcome State Fault Refusal) : Option State :=
  match o with
  | .next t => some t
  | .fault _ => none
  | .refused _ => none

theorem next_of_some {o : Host.Outcome State Fault Refusal} (h : (nextState? o).isSome = true) : ∃ t, o = .next t := by
  cases o with
  | next t => exact ⟨t, rfl⟩
  | fault r => simp [nextState?] at h
  | refused r => simp [nextState?] at h

/-! ## Well-formedness: each check refuses an ill-formed term (70_reset_and_hazards.md R145, 20_memory.md R37) -/

theorem test_params_accept_stop_and_wait :
    (⟨1, 2, 1, NOTINUSE, 0, 0, .zero⟩ : Params).wellFormed = true := by decide
theorem test_params_refuse_no_window : (⟨0, 0, 20, NOTINUSE, 0, 0, .zero⟩ : Params).wellFormed = false := by decide
theorem test_params_refuse_odd_space : (⟨6, 13, 20, NOTINUSE, 0, 0, .zero⟩ : Params).wellFormed = false := by decide
theorem test_params_refuse_no_payload : (⟨6, 12, 0, NOTINUSE, 0, 0, .zero⟩ : Params).wellFormed = false := by decide
theorem test_params_refuse_sentinel_in_space : (⟨6, 12, 20, 11, 0, 0, .zero⟩ : Params).wellFormed = false := by decide
theorem test_params_refuse_wide_space :
    (⟨2 ^ 32, 2 ^ 33, 20, NOTINUSE, 0, 0, .zero⟩ : Params).wellFormed = false := by decide
theorem test_message_refuses_19_bytes : messageBytesWellFormed (List.replicate 19 0) = false := by decide
theorem test_operand_refuses_33_bits : operandWellFormed (2 ^ 32) = false := by decide

/-! ## Decoding: the words of 95_test_vectors.md section 2, one per command -/

theorem test_decode_chkCompute :
    decode 0x616161616161616161616161616161616161616100000000FFFFFFFF000000000#260
      = .ok (.chkCompute 0 0xFFFFFFFF (letters 0x61)) := by decide +kernel
theorem test_decode_chkVerify :
    decode 0x616161616161616161616161616161616161616100000793FFFFFFFF000000001#260
      = .ok (.chkVerify ⟨0, 0xFFFFFFFF, 0x793, letters 0x61⟩) := by decide +kernel
theorem test_decode_seqAdd :
    decode 0x000000000000000000000000000000000000000000000000000000010000000B4#260 = .ok (.seqAdd 11 1) := by
  decide +kernel
theorem test_decode_seqSub :
    decode 0x0000000000000000000000000000000000000000000000000000000A000000035#260 = .ok (.seqSub 3 10) := by
  decide +kernel
theorem test_decode_seqInrange :
    decode 0x00000000000000000000000000000000000000000000000B000000030000000A6#260 = .ok (.seqInrange 10 3 11) := by
  decide +kernel
theorem test_decode_sndInit : decode 0x8#260 = .ok .sndInit := by decide +kernel
theorem test_decode_sndSubmit :
    decode 0x61616161616161616161616161616161616161610000000000000000000000009#260
      = .ok (.sndSubmit (letters 0x61)) := by decide +kernel
theorem test_decode_sndPkt :
    decode 0x3030303030303030303030303030303030303030000003C10000000000000001A#260
      = .ok (.sndPkt ⟨1, 0, 0x3C1, letters 0x30⟩) := by decide +kernel
theorem test_decode_sndTimeout : decode 0xB#260 = .ok .sndTimeout := by decide +kernel
theorem test_decode_rcvInit : decode 0xC#260 = .ok .rcvInit := by decide +kernel
theorem test_decode_rcvPkt :
    decode 0x616161616161616161616161616161616161616100000793FFFFFFFF00000000D#260
      = .ok (.rcvPkt ⟨0, 0xFFFFFFFF, 0x793, letters 0x61⟩) := by decide +kernel
theorem test_decode_reserved_with_operands :
    decode 0x616161616161616161616161616161616161616100000793FFFFFFFF00000000E#260
      = .error (.reservedOpcode 0xE) := by decide +kernel
/-- 30_encoding.md R46: payload byte 0 lies next to the checksum, byte 19 at the top (the bytes of the word differ). -/
theorem test_decode_payload_order :
    (decode 0x131211100F0E0D0C0B0A090807060504030201000000000000000000000000009#260).toOption
      = some (.sndSubmit (messageOfBytes ((List.range 20).map fun i => BitVec.ofNat 8 i))) := by decide +kernel
/-- The word of 30_encoding.md R63. -/
theorem test_encode_sndSubmit :
    encode (.sndSubmit (letters 0x61)) = 0x61616161616161616161616161616161616161610000000000000000000000009#260 := by
  decide +kernel
theorem test_encode_sndPkt :
    encode (.sndPkt ⟨1, 0, 0x3C1, letters 0x30⟩)
      = 0x3030303030303030303030303030303030303030000003C10000000000000001A#260 := by decide +kernel
/-- The byte image printed in 95_test_vectors.md section 2. -/
theorem test_packetImage :
    packetImage (data 0 0x61) = [0, 0, 0, 0, 0xFF, 0xFF, 0xFF, 0xFF, 0x93, 0x07, 0, 0] ++ List.replicate 20 0x61 := by
  decide +kernel
theorem test_decodeTableWord : decodeTableWord 8 0x8 = some .sndInit ∧ decodeTableWord 8 0x7 = none := by
  decide +kernel

/-! ## U0 and U1 -/

theorem test_chk_wraps : chk 0xFFFFFFFF 0xFFFFFFFF (letters 1) = 0x12 := by decide +kernel
/-- 95_test_vectors.md section 3.1, the non-default `BYTE_EXT`. -/
theorem test_chk_sign_extension : chkWith .sign 0 0 (letters 0xFF) = 0xFFFFFFEC := by decide +kernel
theorem test_corrupted_one_byte : corrupted { data 0 0x61 with payload := letters 0x61 + 1 } = true := by decide +kernel
theorem test_corrupted_misses_cancelling : corrupted { data 0 0x61 with seqnum := 1, acknum := 0xFFFFFFFE } = false := by
  decide +kernel
theorem test_chkVerify_answers_1 :
    (afterCommand (.chkVerify spoiled) State.reset).response = some ⟨.leafResult, 1⟩ := by decide +kernel
theorem test_seqAdd_wraps : (afterCommand (.seqAdd 7 5) State.reset).response = some ⟨.leafResult, 0⟩ := by
  decide +kernel
theorem test_seqAdd_illegal : (afterCommand (.seqAdd 0 12) State.reset).response = some ⟨.illegal, 0⟩ := by
  decide +kernel
theorem test_seqSub_borrows : (afterCommand (.seqSub 3 10) State.reset).response = some ⟨.leafResult, 5⟩ := by
  decide +kernel
theorem test_seqSub_illegal : (afterCommand (.seqSub 3 12) State.reset).response = some ⟨.illegal, 0⟩ := by
  decide +kernel
/-- The window `[10, 3]` of the source (41_sequence_modulo_comparator.md R78): 10, 11, 0, 1, 2, 3. -/
theorem test_seqInrange_straddles :
    (List.range 14).filter (seqInrange 10 3) = [0, 1, 2, 3, 10, 11] := by decide +kernel
theorem test_seqInrange_refuses_sentinel : seqInrange 10 3 NOTINUSE.toNat = false := by decide +kernel

/-! ## U2 -/

/-- 42_sender_window_fsm.md R85, example. -/
theorem test_sndSubmit_first :
    let t := afterCommand (.sndSubmit (letters 0x61)) State.reset
    t.outputs = [.tx ⟨0, NOTINUSE, 0x793, letters 0x61⟩, .timerStart] ∧ t.sender.windowlast = 0
      ∧ t.sender.nextseqnum = 1 := by decide +kernel
/-- 42_sender_window_fsm.md R84, example: the seventh submission. -/
theorem test_sndSubmit_seventh :
    let t := afterCommand (.sndSubmit (letters 0x61)) (submitted 6)
    t.outputs = [.evt .windowFull] ∧ t.response = some ⟨.submitWindowFull, 0⟩ ∧ t.sender.nextseqnum = 6 := by
  decide +kernel
/-- 42_sender_window_fsm.md R94, example: 0 acknowledged after 1. -/
theorem test_sndPkt_slides_past_both :
    let t := afterCommand (.sndPkt (ack 0)) (window 6 1 false true false false false false)
    t.sender.windowfirst = 2 ∧ t.sender.windowcount = 4 ∧ t.sender.ackcount = 0
      ∧ t.response = some ⟨.ackNewSlide, 0⟩ := by decide +kernel
/-- 95_test_vectors.md section 3.4, S1 step 12: the full-round slide stops on `ackcount`. -/
theorem test_sndPkt_full_round :
    let t := afterCommand (.sndPkt (ack 0)) (window 6 5 false true true true true true)
    t.sender.windowfirst = 0 ∧ t.sender.ackcount = 0 ∧ t.outputs = [.evt .ackRx, .evt .newAck, .timerStop] := by
  decide +kernel
/-- 95_test_vectors.md section 3.4, S3 step 5. -/
theorem test_sndTimeout_retransmits_oldest :
    (afterCommand .sndTimeout (window 3 1 false true false false false false)).outputs
      = [.tx ⟨0, NOTINUSE, 0x793, letters 0x61⟩, .evt .retransmit, .timerStart] := by decide +kernel
theorem test_sndTimeout_spurious :
    (afterCommand .sndTimeout State.reset).response = some ⟨.timeoutSpurious, 0⟩ := by decide +kernel
/-- 42_sender_window_fsm.md R83, example. -/
theorem test_sndInit_stops_the_timer :
    (afterCommand .sndInit (submitted 1)).outputs = [.timerStop]
      ∧ (afterCommand .sndInit (submitted 1)).sender.windowlast = 5 := by decide +kernel

/-! ## U3 -/

/-- 43_receiver_reorder_fsm.md R108, example, and one delivery. -/
theorem test_rcvPkt_first :
    (afterCommand (.rcvPkt (data 0 0x61)) State.reset).outputs
      = [.evt .dataRx, .tx ⟨1, 0, 0x3C1, letters 0x30⟩, .deliver (letters 0x61)] := by decide +kernel
/-- 95_test_vectors.md section 3.5, step 10: six messages in one burst. -/
theorem test_rcvPkt_burst :
    let t := afterCommand (.rcvPkt (data 0 0x61)) waiting
    t.receiver.expectedseqnum = 6 ∧ t.receiver.rcv_base = 0 ∧ t.response = some ⟨.dataDelivered, 6⟩ := by
  decide +kernel
theorem test_rcvInit_empties_the_buffer :
    (afterCommand .rcvInit waiting).receiver = State.reset.receiver := by decide +kernel

/-! ## One step, the ports, the text form -/

theorem test_step_runs_the_table_word :
    (nextState? (step (State.reset.withFetchWord 8 0xB))).map (·.response) = some (some ⟨.timeoutSpurious, 0⟩) := by
  decide +kernel
theorem test_debug_port :
    debugSlot (window 2 1 false true false false false false) .snd 1
      = (1#257 <<< 256) ||| (packetToBits (data 1 0x61)).setWidth 257 := by decide +kernel
theorem test_seenOn_reporting :
    seenOn .reporting (afterCommand (.sndPkt (ack 0)) (submitted 1)).outputs = [.evt .ackRx, .evt .newAck]
      ∧ eventStrobe .retransmit = 0x08 := by decide +kernel
theorem test_assemble_named : assemble "SEQ.INRANGE first=10 last=3 x=0xB".toList = some (.seqInrange 10 3 11) := by
  decide +kernel
theorem test_assemble_payload :
    assemble "SND.SUBMIT \"aaaaaaaaaaaaaaaaaaaa\"".toList = some (.sndSubmit (letters 0x61)) := by decide +kernel
theorem test_assemble_pseudo :
    assemble "SND.ACK 0 seq=1".toList = some (.sndPkt ⟨1, 0, 0x3C1, letters 0x30⟩)
      ∧ assemble "SEQ.INC a=11".toList = some (.seqAdd 11 1) := by decide +kernel
/-- 20 characters between the outer quotes, one of them a quote (assumption log 12). -/
theorem test_assemble_refuses_inner_quote :
    assemble ("SND.SUBMIT \"aaaaaaaaa".toList ++ ['"'] ++ "aaaaaaaaaa\"".toList) = none := by decide +kernel
theorem test_assemble_refuses_short_message : assemble "SND.SUBMIT \"aaa\"".toList = none := by decide +kernel

/-! ## Other parameters: the stop-and-wait block of 70_reset_and_hazards.md R145, one payload byte, sign-extension -/

def stopAndWait : Params := ⟨1, 2, 1, NOTINUSE, 0, 0, .sign⟩

theorem stopAndWait_window : NeZero stopAndWait.windowSize := ⟨by decide⟩

/-- The byte 0x80 widens to 0xFFFFFF80 and the checksum is `0 + 0xFFFFFFFF + 0xFFFFFF80` (40_packet_checksum_unit.md R70);
the sequence register has one bit and index registers none (00_scope.md R11). -/
theorem test_stopAndWait_submit :
    let a := @stepWith stopAndWait stopAndWait_window (blockReset stopAndWait) (encodeWith _ ⟨.sndSubmit, ⟨0, 0, 0, 0x80⟩⟩)
    a.outputs = [.tx ⟨0, NOTINUSE, 0xFFFFFF7F, 0x80⟩, .timerStart] ∧ a.response = ⟨.submitAccepted, 0⟩
      ∧ a.block.sender.nextseqnum.toNat = 1 := by decide +kernel

/-- 42_sender_window_fsm.md R99: with `W = 1` one accepted message fills the window. -/
theorem test_stopAndWait_full :
    (@stepWith stopAndWait stopAndWait_window
        ⟨{ (blockReset stopAndWait).sender with windowcount := 1, nextseqnum := 1, timer_armed := true },
          (blockReset stopAndWait).receiver⟩
        (encodeWith _ ⟨.sndSubmit, ⟨0, 0, 0, 0x80⟩⟩)).response = ⟨.submitWindowFull, 0⟩ := by decide +kernel

/-! ## Witnesses: states and operands that meet the hypotheses of a statement -/

theorem witness_DecodeInvertsEncode : (Instr.sndPkt (ack 0)).wellFormed = true := rfl

/-- Operand bits that `SND.INIT` ignores are set. -/
theorem witness_EncodeKeepsTheUsedBits : decode 0x1238#260 = .ok .sndInit := by decide +kernel

/-- One word for each opcode. -/
theorem witness_DecodeFollowsTheOpcodeMap : ∀ op < 16, (BitVec.ofNat CMD_W op).toNat % 16 = op := by decide +kernel

theorem witness_StepRunsTheDecodedCommand :
    (present State.reset 0xB).inputs = [.command 0xB] ∧ decode 0xB#260 = .ok .sndTimeout
      ∧ (present State.reset 0xE).inputs = [.command 0xE] ∧ decode 0xE#260 = .error (.reservedOpcode 0xE) := by
  decide +kernel

theorem witness_ReservedOpcodeIsIllegal :
    ∀ op ∈ [0x2, 0x3, 0x7, 0xE, 0xF],
      (present State.reset (BitVec.ofNat CMD_W op)).inputs = [.command (BitVec.ofNat CMD_W op)]
        ∧ (BitVec.ofNat CMD_W op).toNat % 16 ∈ [0x2, 0x3, 0x7, 0xE, 0xF] := by decide +kernel

theorem witness_EveryCommandWordCompletes : (present State.reset 0xF).inputs = [.command 0xF] := by decide +kernel

theorem witness_IdleBlockKeepsItsState : (submitted 2).inputs = [] := by decide +kernel

theorem witness_ResetIsBothInits : ({ submitted 2 with inputs := [.reset] } : State).inputs = [.reset] := rfl

/-- One word for each opcode that a statement of a command's encoding names. -/
theorem witness_encoding_clauses :
    ∀ op ∈ [0x0#4, 0x1#4, 0x4#4, 0x5#4, 0x6#4, 0x8#4, 0xC#4], opcodeField (op.setWidth CMD_W) = op := by decide +kernel

/-- Every byte at the boundary 0x7F. -/
theorem witness_ByteExtensionMattersFromBit7 :
    ∀ i < PAYLOAD_BYTES, (messageByte (letters 0x7F) i).toNat < 0x80 := by decide +kernel

/-- One changed term of each kind. -/
theorem witness_SingleChangeIsDetected :
    corrupted (data 0 0x61) = false
      ∧ DifferInOneTerm (data 0 0x61) ⟨1, NOTINUSE, 0x793, letters 0x61⟩
      ∧ DifferInOneTerm (data 0 0x61) ⟨0, 0, 0x793, letters 0x61⟩
      ∧ DifferInOneTerm (data 0 0x61) ⟨0, NOTINUSE, 0x794, letters 0x61⟩
      ∧ DifferInOneTerm (data 0 0x61) ⟨0, NOTINUSE, 0x793, letters 0x61 - 1⟩ :=
  ⟨by decide +kernel, .inl (by decide +kernel), .inr (.inl (by decide +kernel)), .inr (.inr (.inl (by decide +kernel))),
    .inr (.inr (.inr (by decide +kernel)))⟩

/-- Bytes 0 and 19 swapped, which here is also byte 19 up and byte 0 down by 2. -/
theorem witness_CancellingChangesAreMissed :
    let m := messageOfBytes (0x62 :: List.replicate 18 0x61 ++ [0x60])
    let n := messageOfBytes (0x60 :: List.replicate 18 0x61 ++ [0x62])
    (messageByte n 19).toNat = (messageByte m 19).toNat + 2 ∧ (messageByte n 0).toNat + 2 = (messageByte m 0).toNat
      ∧ messageByte n 0 = messageByte m 19 ∧ messageByte n 19 = messageByte m 0
      ∧ ∀ k < PAYLOAD_BYTES, k ≠ 0 → k ≠ 19 → messageByte n k = messageByte m k := by decide +kernel

/-- The boundary operands of the clauses of `SEQ.ADD` and `SEQ.SUB`. -/
theorem witness_SeqArithmetic_clauses :
    ((11#32).toNat + (0#32).toNat < SEQSPACE ∧ ¬ (11#32).toNat + (1#32).toNat < SEQSPACE ∧ ¬ (12#32).toNat < SEQSPACE)
      ∧ ((0#32).toNat ≤ (0#32).toNat ∧ ¬ (1#32).toNat ≤ (0#32).toNat) := by decide +kernel

/-- The last new number and the first old one at `expectedseqnum = 0`. -/
theorem witness_EveryNumberIsNewOrOld :
    State.reset.receiver.expectedseqnum.toNat < SEQSPACE ∧ (5#32).toNat < SEQSPACE ∧ (6#32).toNat < SEQSPACE := by
  decide +kernel

theorem witness_SubmitIsRejectedWhenFull :
    ¬ ((submitted 6).sender.windowcount.toNat + (submitted 6).sender.ackcount.toNat < WINDOWSIZE) := by decide +kernel

/-- Both cases of the timer clause: an empty window, and five outstanding. -/
theorem witness_SubmitIsAcceptedBelowFull :
    State.reset.sender.windowcount.toNat = 0
      ∧ (submitted 5).sender.windowcount.toNat + (submitted 5).sender.ackcount.toNat < WINDOWSIZE
      ∧ (submitted 5).sender.windowcount.toNat ≠ 0 := by decide +kernel

/-- A corrupted packet, and two uncorrupted ones that agree in `acknum` only. -/
theorem witness_CorruptedAckIsIgnored :
    corrupted spoiled = true ∧ corrupted (ack 0) = false ∧ corrupted (buildPacket 7 0 (letters 0x61)) = false
      ∧ (buildPacket 7 0 (letters 0x61)).acknum = (ack 0).acknum := by decide +kernel

/-- One state for each of the three duplicate outcomes. -/
theorem witness_DuplicateAckIsIgnored :
    corrupted (ack 0) = false
      ∧ State.reset.sender.windowcount.toNat + State.reset.sender.ackcount.toNat = 0
      ∧ (seqInrange (seqFirst (submitted 2).sender).toNat (seqLast (submitted 2).sender).toNat (2#32).toNat = false
          ∧ corrupted (ack 2) = false)
      ∧ (let s := window 2 1 false true false false false false;
          corrupted (ack 1) = false
            ∧ (memRead s.sender.snd_win (s.sender.windowfirst.toNat
                + seqSub (1#32).toNat (seqFirst s.sender).toNat)).acked = true) := by decide +kernel

/-- A new number, and one no live slot holds. -/
theorem witness_AckIsNewExactlyForAnUnackedLiveNumber :
    SenderInvariant (submitted 3).sender ∧ corrupted (ack 2) = false ∧ corrupted (ack 3) = false := by decide +kernel

/-- The last live slot. -/
theorem witness_NewAckOfALaterSlotMarksIt :
    SenderInvariant (submitted 3).sender ∧ corrupted (ack 2) = false ∧ 2 < liveCount (submitted 3).sender
      ∧ (liveSlot (submitted 3).sender 2).pkt.seqnum = (ack 2).acknum
      ∧ (liveSlot (submitted 3).sender 2).acked = false := by decide +kernel

/-- A slide that stops inside the window, and one that empties a full window. -/
theorem witness_NewAckOfTheOldestSlotSlides :
    (let s := window 3 1 false true false false false false;
      SenderInvariant s.sender ∧ 0 < liveCount s.sender ∧ (ack 0).acknum = seqFirst s.sender
        ∧ s.sender.windowcount.toNat ≠ 1)
      ∧ (let s := window 6 5 false true true true true true;
        SenderInvariant s.sender ∧ 0 < liveCount s.sender ∧ (ack 0).acknum = seqFirst s.sender
          ∧ s.sender.windowcount.toNat = 1)
      ∧ corrupted (ack 0) = false := by decide +kernel

theorem witness_DataPacketAtTheSenderIsADuplicate :
    (data 0 0x61).acknum = NOTINUSE ∧ corrupted (data 0 0x61) = false := by decide +kernel

theorem witness_SpuriousTimeoutIsDiscarded : State.reset.sender.timer_armed = false := rfl

/-- An armed sender whose oldest live slot is acknowledged and whose next one is not. -/
def secondUnacked : State := window 2 1 true false false false false false

/-- The first live slot, and the second behind an acknowledged one. -/
theorem witness_TimeoutRetransmitsTheOldestUnacked :
    ((submitted 1).sender.timer_armed = true
        ∧ 0 < (submitted 1).sender.windowcount.toNat + (submitted 1).sender.ackcount.toNat
        ∧ (memRead (submitted 1).sender.snd_win ((submitted 1).sender.windowfirst.toNat + 0)).acked = false)
      ∧ (secondUnacked.sender.timer_armed = true
        ∧ 1 < secondUnacked.sender.windowcount.toNat + secondUnacked.sender.ackcount.toNat
        ∧ (memRead secondUnacked.sender.snd_win (secondUnacked.sender.windowfirst.toNat + 1)).acked = false
        ∧ ∀ j < 1, (memRead secondUnacked.sender.snd_win (secondUnacked.sender.windowfirst.toNat + j)).acked = true) := by
  decide +kernel

/-- An armed sender with every live slot acknowledged. -/
def allAcked : State := window 1 0 true false false false false false

theorem witness_TimeoutWithNothingToRetransmit :
    allAcked.sender.timer_armed = true
      ∧ ∀ k < allAcked.sender.windowcount.toNat + allAcked.sender.ackcount.toNat,
          (memRead allAcked.sender.snd_win (allAcked.sender.windowfirst.toNat + k)).acked = true := by decide +kernel

theorem witness_GoodTimeoutRetransmitsTheFirstSlot :
    SenderInvariant (submitted 2).sender ∧ (submitted 2).sender.timer_armed = true := by decide +kernel

theorem witness_WindowPhaseMovesAsTheTableSays :
    SenderInvariant (submitted 2).sender
      ∧ exec (.sndPkt (ack 0)) (submitted 2) = .next (afterCommand (.sndPkt (ack 0)) (submitted 2))
      ∧ (afterCommand (.sndPkt (ack 0)) (submitted 2)).response = some ⟨.ackNewSlide, 0⟩ :=
  ⟨by decide +kernel, rfl, by decide +kernel⟩

theorem witness_CorruptedDataIsDropped : corrupted spoiled = true := by decide +kernel

/-- A packet whose number is no sequence number. -/
theorem witness_EveryUncorruptedPacketIsAcknowledged : corrupted (data NOTINUSE 0x61) = false := by decide +kernel

/-- The first number beyond the range, the first that is no sequence number, and the last 32-bit value. -/
theorem witness_OutOfRangeDataIsAcknowledgedOnly :
    (corrupted (data 6 0x61) = false ∧ ¬ InAcceptanceRange State.reset.receiver (data 6 0x61).seqnum)
      ∧ (corrupted (data 12 0x61) = false ∧ ¬ InAcceptanceRange State.reset.receiver (data 12 0x61).seqnum)
      ∧ (corrupted (data NOTINUSE 0x61) = false
        ∧ ¬ InAcceptanceRange State.reset.receiver (data NOTINUSE 0x61).seqnum) := by decide +kernel

/-- The first and the last number of the range after the expected one. -/
theorem witness_OutOfOrderDataIsBuffered :
    (corrupted (data 1 0x61) = false ∧ InAcceptanceRange State.reset.receiver (data 1 0x61).seqnum
        ∧ (data 1 0x61).seqnum.toNat ≠ State.reset.receiver.expectedseqnum.toNat)
      ∧ (corrupted (data 5 0x61) = false ∧ InAcceptanceRange State.reset.receiver (data 5 0x61).seqnum
        ∧ (data 5 0x61).seqnum.toNat ≠ State.reset.receiver.expectedseqnum.toNat) := by decide +kernel

/-- An empty buffer (one delivery), and a buffer that holds the five packets after the expected one (six). -/
theorem witness_ExpectedDataDeliversTheRun :
    ∀ s ∈ [State.reset, waiting],
      corrupted (data 0 0x61) = false ∧ s.receiver.expectedseqnum.toNat < SEQSPACE
        ∧ s.receiver.rcv_base.toNat = s.receiver.expectedseqnum.toNat % WINDOWSIZE
        ∧ (data 0 0x61).seqnum.toNat = s.receiver.expectedseqnum.toNat := by decide +kernel

theorem witness_SecondCopyReplacesTheFirst :
    corrupted (data 3 0x64) = false ∧ corrupted (data 3 0x44) = false ∧ (data 3 0x44).seqnum = (data 3 0x64).seqnum
      ∧ InAcceptanceRange State.reset.receiver (data 3 0x64).seqnum
      ∧ (data 3 0x64).seqnum.toNat ≠ State.reset.receiver.expectedseqnum.toNat := by decide +kernel

theorem witness_ReceiverWorkIsBounded : ∃ t, exec (.rcvPkt (data 3 0x64)) State.reset = .next t := ⟨_, rfl⟩

/-- A command word of each kind of unit: sender, receiver, neither. -/
theorem witness_OnlyTheOwningUnitChangesAnEngine :
    ∀ w ∈ [0x8, 0xC, 0x4], (present State.reset w).inputs = [.command w] ∧ ∃ t, step (present State.reset w) = .next t := by
  intro w hw
  refine ⟨rfl, next_of_some ?_⟩
  fin_cases hw <;> decide +kernel

theorem witness_SenderAndReceiverCommandsCommute :
    ofUnit 2#2 (.sndSubmit (letters 0x61)) ∧ ofUnit 3#2 (.rcvPkt (data 0 0x61)) := by decide +kernel

theorem witness_EveryStepKeepsTheInvariants :
    Good (present (submitted 3) (encode (.sndPkt (ack 0))))
      ∧ ∃ t, step (present (submitted 3) (encode (.sndPkt (ack 0)))) = .next t :=
  ⟨by decide +kernel, next_of_some (by decide +kernel)⟩

/-- A step that sets flag 0 and slides, seen from a slot at each end of the array. -/
theorem witness_SlotsChangeOnlyAsStated :
    (∃ t, step (present (submitted 3) (encode (.sndPkt (ack 0)))) = .next t) ∧ 0 < WINDOWSIZE ∧ 5 < WINDOWSIZE :=
  ⟨next_of_some (by decide +kernel), by decide, by decide⟩

theorem witness_SequenceRegistersAdvanceOnlyAsStated :
    exec (.rcvPkt (data 0 0x61)) (submitted 1) = .next (afterCommand (.rcvPkt (data 0 0x61)) (submitted 1))
      ∧ Instr.rcvPkt (data 0 0x61) ≠ .sndInit ∧ Instr.rcvPkt (data 0 0x61) ≠ .rcvInit :=
  ⟨rfl, by decide +kernel, by decide +kernel⟩

theorem witness_StrobesFollowTheResponse :
    exec .sndTimeout (submitted 1) = .next (afterCommand .sndTimeout (submitted 1))
      ∧ (afterCommand .sndTimeout (submitted 1)).response = some ⟨.timeoutRetransmit, 0⟩ := ⟨rfl, by decide +kernel⟩

theorem witness_OutputsComeInTheOrderOfTheRules :
    exec (.sndPkt (ack 0)) (submitted 2) = .next (afterCommand (.sndPkt (ack 0)) (submitted 2)) := rfl

theorem witness_ResultsFollowTheResponse :
    ReceiverInvariant State.reset.receiver
      ∧ exec (.rcvPkt (data 0 0x61)) State.reset = .next (afterCommand (.rcvPkt (data 0 0x61)) State.reset)
      ∧ (afterCommand (.rcvPkt (data 0 0x61)) State.reset).response = some ⟨.dataDelivered, 1⟩ :=
  ⟨by decide +kernel, rfl, by decide +kernel⟩

theorem witness_TimerPortAlternates :
    SenderInvariant (submitted 1).sender
      ∧ exec (.sndPkt (ack 0)) (submitted 1) = .next (afterCommand (.sndPkt (ack 0)) (submitted 1)) :=
  ⟨by decide +kernel, rfl⟩

/-- `submitted 1` with a stale flag in a slot that is not live. -/
def staleFlag : State := window 1 0 false false false false true false

theorem witness_DeadSlotsAreNeverRead :
    SenderInvariant (submitted 1).sender ∧ SenderInvariant staleFlag.sender
      ∧ SameLiveWindow (submitted 1).sender staleFlag.sender ∧ (submitted 1).receiver = staleFlag.receiver
      ∧ (submitted 1).sender ≠ staleFlag.sender
      ∧ exec (.sndPkt (ack 0)) (submitted 1) = .next (afterCommand (.sndPkt (ack 0)) (submitted 1))
      ∧ exec (.sndPkt (ack 0)) staleFlag = .next (afterCommand (.sndPkt (ack 0)) staleFlag) :=
  ⟨by decide +kernel, by decide +kernel, by decide +kernel, by decide +kernel, by decide +kernel, rfl, rfl⟩

/-- The last index of the array and the first beyond it. -/
theorem witness_DebugPortShowsTheSlots : (5#3).toNat < WINDOWSIZE ∧ WINDOWSIZE ≤ (6#3).toNat := by decide +kernel

/-- A run of the link on which a packet arrives corrupted, is retransmitted on the timeout and is then delivered. -/
def corruptedThenDelivered : List LinkAction :=
  [.submit (letters 0x61), .dataArrives spoiled, .timerExpires, .dataArrives (data 0 0x61)]

/-- A link with one message outstanding, its packet in flight. -/
def oneOutstanding : Link :=
  { initialLink with
    blockA := submitted 1, dataChannel := [(numbered 0 false).pkt], timer := .armed, accepted := [letters 0x61] }

theorem witness_LinkDeliversInOrderExactlyOnce :
    (linkRun corruptedThenDelivered initialLink).map (·.delivered) = some [letters 0x61]
      ∧ allCorruptionDetected corruptedThenDelivered initialLink = true := by decide +kernel

/-- A timer that is armed, and an expiry of it. -/
theorem witness_LinkNeverMisusesTheTimer :
    (linkRun corruptedThenDelivered initialLink).map (·.timer) = some .armed
      ∧ TimerInStep oneOutstanding ∧ (linkAct oneOutstanding .timerExpires).isSome = true := by decide +kernel

/-- A link with one message outstanding, its packet in flight: the arrival as sent, and the arrival of a spoiled packet. -/
theorem witness_LinkInvariantIsKept :
    LinkInvariant oneOutstanding
      ∧ corruptionDetected oneOutstanding (.dataArrives (numbered 0 false).pkt) = true
      ∧ (linkAct oneOutstanding (.dataArrives (numbered 0 false).pkt)).isSome = true
      ∧ corruptionDetected oneOutstanding (.dataArrives spoiled) = true
      ∧ (linkAct oneOutstanding (.dataArrives spoiled)).isSome = true :=
  ⟨⟨by decide +kernel, by decide +kernel, by decide +kernel, by decide +kernel,
      ⟨[0], by decide +kernel, by decide +kernel, by decide +kernel⟩, ⟨[], .nil, .nil, by simp⟩⟩,
    by decide +kernel, by decide +kernel, by decide +kernel, by decide +kernel⟩

/-- A word that decodes, of the stop-and-wait block. -/
theorem witness_EveryPayloadSizeRoundTrips :
    decodeWith stopAndWait (0x80 <<< 100 ||| 0x9) = .ok ⟨.sndSubmit, ⟨0, 0, 0, 0x80⟩⟩ := by decide +kernel

end Sys2Proof.Tests
end

section
/-! Packets and command words as bits, for any payload size: which field each bit belongs to (20_memory.md R36,
30_encoding.md R46), and from that the round trips. -/

namespace Sys2Proof

open Config

/-- A field placed at bit `k` of a word that has room for it: its bits stand from `k` on, and the others are 0. -/
theorem getLsbD_setWidth_shiftLeft {n N k : Nat} (v : BitVec n) (room : k + n ≤ N) (i : Nat) :
    (v.setWidth N <<< k).getLsbD i = (decide (k ≤ i) && v.getLsbD (i - k)) := by
  by_cases hi : i - k < n
  · have hroom : i < N ∨ i < k := by omega
    grind
  · simp [BitVec.getLsbD_of_ge v (i - k) (by omega)]

variable {P : Nat}

/-! ## Packets -/

/-- The layout of a packet (20_memory.md R36), bit by bit. -/
theorem getLsbD_packetToBits (p : PacketOf P) (i : Nat) :
    (packetToBits p).getLsbD i =
      if i < 32 then p.seqnum.getLsbD i
      else if i < 64 then p.acknum.getLsbD (i - 32)
      else if i < 96 then p.checksum.getLsbD (i - 64)
      else p.payload.getLsbD (i - 96) := by
  have hseq := getLsbD_setWidth_shiftLeft (k := 0) (N := 96 + 8 * P) p.seqnum (Nat.le_add_right_of_le (by decide)) i
  have hack := getLsbD_setWidth_shiftLeft (k := 32) (N := 96 + 8 * P) p.acknum (Nat.le_add_right_of_le (by decide)) i
  have hchk := getLsbD_setWidth_shiftLeft (k := 64) (N := 96 + 8 * P) p.checksum (Nat.le_add_right_of_le (by decide)) i
  have hpay := getLsbD_setWidth_shiftLeft (k := 96) (N := 96 + 8 * P) p.payload le_rfl i
  rw [BitVec.shiftLeft_zero] at hseq
  simp only [packetToBits, BitVec.getLsbD_or, hseq, hack, hchk, hpay]
  split_ifs <;> grind

/-- The slices of a packet's bits are its fields. -/
@[simp] theorem packetOfBits_packetToBits (p : PacketOf P) : packetOfBits (packetToBits p) = p := by
  obtain ⟨seqnum, acknum, checksum, payload⟩ := p
  simp only [packetOfBits, PacketOf.mk.injEq]
  refine ⟨?_, ?_, ?_, ?_⟩ <;> refine BitVec.eq_of_getLsbD_eq fun i hi => ?_ <;>
    grind [getLsbD_packetToBits]

/-- The fields sliced from a packet's bits, put together, are those bits. -/
@[simp] theorem packetToBits_packetOfBits (v : BitVec (96 + 8 * P)) : packetToBits (packetOfBits v) = v := by
  refine BitVec.eq_of_getLsbD_eq fun i hi => ?_
  simp only [getLsbD_packetToBits, packetOfBits, BitVec.getLsbD_extractLsb']
  split_ifs <;> grind

/-! ## Command words -/

/-- The layout of a command word (30_encoding.md R46), bit by bit. -/
theorem getLsbD_formatC (opcode : BitVec 4) (p : PacketOf P) (i : Nat) :
    (formatC opcode p).getLsbD i = if i < 4 then opcode.getLsbD i else (packetToBits p).getLsbD (i - 4) := by
  have hop := getLsbD_setWidth_shiftLeft (k := 0) (N := 4 + (96 + 8 * P)) opcode (by omega) i
  have hpkt := getLsbD_setWidth_shiftLeft (k := 4) (packetToBits p) le_rfl i
  rw [BitVec.shiftLeft_zero] at hop
  simp only [formatC, BitVec.getLsbD_or, hop, hpkt]
  split_ifs <;> grind

/-- `cmd[3:0]` is the opcode, for any payload size. -/
@[simp] theorem opcodeField_formatC_anySize (opcode : BitVec 4) (p : PacketOf P) : opcodeField (formatC opcode p) = opcode := by
  refine BitVec.eq_of_getLsbD_eq fun i hi => ?_
  simp [opcodeField, getLsbD_formatC, hi]

/-- The bits above the opcode are the operand block. -/
@[simp] theorem operandPacket_formatC (opcode : BitVec 4) (p : PacketOf P) : operandPacket (formatC opcode p) P = p := by
  have hblock : (formatC opcode p).extractLsb' 4 (96 + 8 * P) = packetToBits p := by
    refine BitVec.eq_of_getLsbD_eq fun i hi => ?_
    simp only [BitVec.getLsbD_extractLsb', getLsbD_formatC]
    simp [hi]
  rw [operandPacket, hblock, packetOfBits_packetToBits]

/-- A command word is its opcode and its operand block, and nothing else. -/
@[simp] theorem formatC_fields (w : BitVec (4 + (96 + 8 * P))) : formatC (opcodeField w) (operandPacket w P) = w := by
  refine BitVec.eq_of_getLsbD_eq fun i hi => ?_
  rw [getLsbD_formatC, operandPacket, packetToBits_packetOfBits]
  split_ifs with hop
  · simp [opcodeField, hop]
  · simp [show i - 4 < 96 + 8 * P by omega, show 4 + (i - 4) = i by omega]

end Sys2Proof

namespace Sys2Proof.Machine

open Config

variable {c : Params}

/-- What it is for the decoder to answer a command: the opcode map gives its operation and the operand block is its own. -/
theorem decodeWith_eq_ok_iff {w : BitVec c.cmdW} {cmd : CommandOf c.payloadBytes} :
    decodeWith c w = .ok cmd ↔
      operationAt (opcodeField w) = .ok cmd.operation ∧ operandPacket w c.payloadBytes = cmd.operands := by
  unfold decodeWith
  cases operationAt (opcodeField w) with
  | error e => simp
  | ok op => cases cmd; simp

/-- The decoder reads back what the encoder wrote. -/
@[simp] theorem decodeWith_encodeWith (cmd : CommandOf c.payloadBytes) : decodeWith c (encodeWith c cmd) = .ok cmd := by
  simp [decodeWith_eq_ok_iff, encodeWith]

/-- The encoder writes back the word a command was read from: no bit of a word is lost in its operation and its block. -/
theorem encodeWith_of_decodeWith {w : BitVec c.cmdW} {cmd : CommandOf c.payloadBytes} (h : decodeWith c w = .ok cmd) :
    encodeWith c cmd = w := by
  obtain ⟨hop, hpkt⟩ := decodeWith_eq_ok_iff.mp h
  rw [encodeWith, opcode_of_operationAt _ _ hop, ← hpkt, formatC_fields]

/-- Settles O60: the layout of 30_encoding.md R46 splits a word into opcode and operand block without loss, and the opcode
map is a bijection between the operations and the opcodes that are not reserved. -/
theorem everyPayloadSizeRoundTrips : Obligations.EveryPayloadSizeRoundTrips :=
  ⟨fun _ => decodeWith_encodeWith, fun _ _ _ => encodeWith_of_decodeWith⟩

end Sys2Proof.Machine
end

section
/-! What one command can do to the two engines' records: which engine a command of each unit changes (10_state.md R12,
30_encoding.md R46), what becomes of the window's slots (R19, R26) and of the sequence registers (R17, R21, R23), and the
reset values (R29). -/

namespace Sys2Proof.Machine

open Config

/-! ## The unit of a command -/

/-- The instruction of an operation has that operation. -/
@[simp] theorem operationOf_instrOf (op : Operation) (p : Packet) : operationOf (instrOf op p) = op := by
  cases op <;> rfl

/-- A decoded command has the opcode of its word. -/
theorem opcodeOf_of_decode {w : CmdWord} {i : Instr} (h : decode w = .ok i) : opcodeOf i = opcodeField w := by
  rw [decode_eq] at h
  cases ho : operationAt (opcodeField w) with
  | error e => simp [ho, Except.map] at h
  | ok op =>
    have hi : instrOf op (operandPacket w) = i := by simpa [ho, Except.map] using h
    rw [← hi, opcodeOf_eq, operationOf_instrOf, opcode_of_operationAt _ _ ho]

/-- The unit of a word is the upper half of its opcode (30_encoding.md R46). -/
theorem unitField_eq_opcodeField (w : CmdWord) : unitField w = (opcodeField w).extractLsb' 2 2 := by
  refine BitVec.eq_of_getLsbD_eq fun i hi => ?_
  simp [unitField, opcodeField, hi]

/-- A decoded command belongs to the unit its word names. -/
theorem ofUnit_iff_of_decode {w : CmdWord} {i : Instr} (h : decode w = .ok i) (u : BitVec 2) :
    ofUnit u i ↔ unitField w = u := by
  rw [ofUnit, opcodeOf_of_decode h, unitField_eq_opcodeField]

/-! ## What a command of each unit can do -/

/-- `SEQ.ADD` answers a function value or `ILLEGAL`. -/
theorem leafSeqAdd_code (a b : Word) : (leafSeqAdd a b).code = .leafResult ∨ (leafSeqAdd a b).code = .illegal := by
  unfold leafSeqAdd
  split
  · exact .inl rfl
  · exact .inr rfl

/-- `SEQ.SUB` answers a function value or `ILLEGAL`. -/
theorem leafSeqSub_code (a b : Word) : (leafSeqSub a b).code = .leafResult ∨ (leafSeqSub a b).code = .illegal := by
  unfold leafSeqSub
  split
  · exact .inl rfl
  · exact .inr rfl

/-- The commands of U2 (30_encoding.md R47). -/
theorem ofUnit_sender_iff (i : Instr) :
    ofUnit 2#2 i ↔ i = .sndInit ∨ (∃ m, i = .sndSubmit m) ∨ (∃ p, i = .sndPkt p) ∨ i = .sndTimeout := by
  cases i <;> simp [ofUnit, opcodeOf]

/-- The commands of U3 (30_encoding.md R47). -/
theorem ofUnit_receiver_iff (i : Instr) : ofUnit 3#2 i ↔ i = .rcvInit ∨ ∃ p, i = .rcvPkt p := by
  cases i <;> simp [ofUnit, opcodeOf]

/-- A command of U2 does to the sender what the sender alone decides, by the same function in every state. -/
theorem exec_of_senderUnit {i : Instr} (h : ofUnit 2#2 i) :
    ∃ f : SenderState → Reaction SenderState, ∀ s, exec i s = .next (concludeSender s (f s.sender)) := by
  rcases (ofUnit_sender_iff i).mp h with rfl | ⟨m, rfl⟩ | ⟨p, rfl⟩ | rfl
  · exact ⟨_, fun _ => rfl⟩
  · exact ⟨(sndSubmit m ·), fun _ => rfl⟩
  · exact ⟨(sndPkt p ·), fun _ => rfl⟩
  · exact ⟨_, fun _ => rfl⟩

/-- A command of U3 does to the receiver what the receiver alone decides, by the same function in every state. -/
theorem exec_of_receiverUnit {i : Instr} (h : ofUnit 3#2 i) :
    ∃ f : ReceiverState → Reaction ReceiverState, ∀ s, exec i s = .next (concludeReceiver s (f s.receiver)) := by
  rcases (ofUnit_receiver_iff i).mp h with rfl | ⟨p, rfl⟩
  · exact ⟨(rcvInit ·), fun _ => rfl⟩
  · exact ⟨(rcvPkt p ·), fun _ => rfl⟩

/-- A command of U0 or U1 only answers. -/
theorem exec_of_leafUnit {i : Instr} (h2 : ¬ ofUnit 2#2 i) (h3 : ¬ ofUnit 3#2 i) :
    ∃ r : Response, (r.code = .leafResult ∨ r.code = .illegal) ∧ ∀ s, exec i s = .next (conclude s [] r) := by
  cases i with
  | chkCompute => exact ⟨_, .inl rfl, fun _ => rfl⟩
  | chkVerify => exact ⟨_, .inl rfl, fun _ => rfl⟩
  | seqAdd a b => exact ⟨_, leafSeqAdd_code a b, fun _ => rfl⟩
  | seqSub a b => exact ⟨_, leafSeqSub_code a b, fun _ => rfl⟩
  | seqInrange => exact ⟨_, .inl rfl, fun _ => rfl⟩
  | _ => simp [ofUnit, opcodeOf] at h2 h3

/-! The outcome of each command that can change an engine. -/

theorem eq_of_exec_sndInit {s t : State} (h : exec .sndInit s = .next t) :
    t = concludeSender s (sndInit s.sender) := (Host.Outcome.next.inj h).symm

theorem eq_of_exec_sndSubmit {m : Message} {s t : State} (h : exec (.sndSubmit m) s = .next t) :
    t = concludeSender s (sndSubmit m s.sender) := (Host.Outcome.next.inj h).symm

theorem eq_of_exec_sndPkt {p : Packet} {s t : State} (h : exec (.sndPkt p) s = .next t) :
    t = concludeSender s (sndPkt p s.sender) := (Host.Outcome.next.inj h).symm

theorem eq_of_exec_sndTimeout {s t : State} (h : exec .sndTimeout s = .next t) :
    t = concludeSender s (sndTimeout s.sender) := (Host.Outcome.next.inj h).symm

theorem eq_of_exec_rcvInit {s t : State} (h : exec .rcvInit s = .next t) :
    t = concludeReceiver s (rcvInit s.receiver) := (Host.Outcome.next.inj h).symm

theorem eq_of_exec_rcvPkt {p : Packet} {s t : State} (h : exec (.rcvPkt p) s = .next t) :
    t = concludeReceiver s (rcvPkt p s.receiver) := (Host.Outcome.next.inj h).symm

/-- A command of a unit other than U2 keeps the sender. -/
theorem exec_sender_of_not_ofUnit {i : Instr} {s t : State} (he : exec i s = .next t) (h : ¬ ofUnit 2#2 i) :
    t.sender = s.sender := by
  by_cases h3 : ofUnit 3#2 i
  · obtain ⟨f, hf⟩ := exec_of_receiverUnit h3
    cases (hf s).symm.trans he; rfl
  · obtain ⟨r, -, hr⟩ := exec_of_leafUnit h h3
    cases (hr s).symm.trans he; rfl

/-- A command of a unit other than U3 keeps the receiver. -/
theorem exec_receiver_of_not_ofUnit {i : Instr} {s t : State} (he : exec i s = .next t) (h : ¬ ofUnit 3#2 i) :
    t.receiver = s.receiver := by
  by_cases h2 : ofUnit 2#2 i
  · obtain ⟨f, hf⟩ := exec_of_senderUnit h2
    cases (hf s).symm.trans he; rfl
  · obtain ⟨r, -, hr⟩ := exec_of_leafUnit h2 h
    cases (hr s).symm.trans he; rfl

/-- Settles O45: a word's unit is its command's, a command of another unit keeps the engine, and so does a word that is no
command. -/
theorem onlyTheOwningUnitChangesAnEngine : Obligations.OnlyTheOwningUnitChangesAnEngine := by
  intro s t w rest hin hstep
  rcases step_cases s with ⟨h, -⟩ | ⟨_, h, -⟩ | ⟨w', rest', i, h, hd, he⟩ | ⟨w', rest', e, -, -, he⟩
  · simp [hin] at h
  · simp [hin] at h
  · obtain ⟨rfl, rfl⟩ : w = w' ∧ rest = rest' := by simpa [hin] using h
    have hexec := he.symm.trans hstep
    simp only [ne_eq, ← ofUnit_iff_of_decode hd]
    exact ⟨exec_sender_of_not_ofUnit (s := { s with inputs := rest }) hexec,
      exec_receiver_of_not_ofUnit (s := { s with inputs := rest }) hexec⟩
  · cases he.symm.trans hstep
    exact ⟨fun _ => rfl, fun _ => rfl⟩

/-- Settles O46: each of the two commands reads and writes its own engine's record only, so the other command, before or
after it, makes no difference to it. -/
theorem senderAndReceiverCommandsCommute : Obligations.SenderAndReceiverCommandsCommute := by
  intro s i j hi hj
  obtain ⟨f, hf⟩ := exec_of_senderUnit hi
  obtain ⟨g, hg⟩ := exec_of_receiverUnit hj
  exact ⟨_, _, _, _, hf s, hg _, hg s, hf _, rfl, rfl, rfl, rfl, rfl, rfl⟩

/-! ## The reset values -/

@[simp] theorem reset_sender : State.reset.sender = SenderStateOf.reset := rfl
@[simp] theorem reset_receiver : State.reset.receiver = ReceiverStateOf.reset := rfl
@[simp] theorem sndInit_state (s : SenderState) : (sndInit s).state = SenderStateOf.reset := rfl
@[simp] theorem rcvInit_state (r : ReceiverState) : (rcvInit r).state = ReceiverStateOf.reset := rfl

/-- The slots of the sender window after reset. -/
@[simp] theorem memRead_reset_snd_win (i : Nat) :
    memRead (SenderStateOf.reset : SenderState).snd_win i = ⟨zeroPacket, false⟩ := memRead_replicate _ i

/-- The slots of the receiver buffer after reset. -/
@[simp] theorem memRead_reset_rcv_buf (i : Nat) :
    memRead (ReceiverStateOf.reset : ReceiverState).rcv_buf i = emptyRcvSlot := memRead_replicate _ i

/-- The packet with all fields 0 has all bits 0. -/
@[simp] theorem packetToBits_zeroPacket {P : Nat} : packetToBits (zeroPacket : PacketOf P) = 0 := by
  simp [packetToBits, zeroPacket]

/-- The sender's reset record is the sender rows of R29. -/
theorem senderResetRows_reset : SenderResetRows SenderStateOf.reset :=
  ⟨rfl, rfl, rfl, rfl, rfl, rfl, fun i _ => by simp⟩

/-- The receiver's reset record is the receiver rows of R29. -/
theorem receiverResetRows_reset : ReceiverResetRows ReceiverStateOf.reset :=
  ⟨rfl, rfl, rfl, fun i _ => by simp [emptyRcvSlot]⟩

/-- Settles O10: reset and each INIT leave the same records. -/
theorem resetAndInitLeaveTheTableOfResetValues : Obligations.ResetAndInitLeaveTheTableOfResetValues :=
  ⟨senderResetRows_reset, receiverResetRows_reset, fun _ => ⟨_, rfl, senderResetRows_reset⟩,
    fun _ => ⟨_, rfl, receiverResetRows_reset⟩⟩

/-- The empty window after reset meets R150 to R155: with no live slot, what they say of live slots holds of none. -/
theorem senderInvariant_reset : SenderInvariant SenderStateOf.reset := by
  have hlive : liveCount (SenderStateOf.reset : SenderState) = 0 := rfl
  have hslots : liveIndices (SenderStateOf.reset : SenderState) = [] := rfl
  refine ⟨by decide, by decide, ⟨?_, ?_⟩, ?_, ⟨?_, ?_⟩, by decide⟩
  · simp [hlive]
  · simp [hlive]
  · simp [OldestUnacked, hlive]
  · rw [hslots]; rfl
  · rw [hslots]; rfl

/-- The buffer after reset meets R157: every slot holds the reset record. -/
theorem receiverInvariant_reset : ReceiverInvariant ReceiverStateOf.reset :=
  ⟨by decide, by decide, by decide, by decide, fun i _ => .inl (memRead_reset_rcv_buf i)⟩

/-- Settles O48: both engines' reset records meet their invariants. -/
theorem resetMeetsTheInvariants : Obligations.ResetMeetsTheInvariants :=
  ⟨senderInvariant_reset, receiverInvariant_reset⟩

/-! ## What an accepted acknowledgment leaves -/

/-- An accepted acknowledgment marks its target and touches no other slot and no packet. -/
@[simp] theorem acceptAck_snd_win (a : Word) (s : SenderState) :
    (acceptAck a s).state.snd_win = setAcked s.snd_win (ackTarget s a) := by
  obtain ⟨-, -, -, -, hwin⟩ := slideIfFirst_frame (a == seqFirst s) (markAcked (ackTarget s a) s)
  exact hwin

/-- An accepted acknowledgment assigns no number. -/
@[simp] theorem acceptAck_nextseqnum (a : Word) (s : SenderState) : (acceptAck a s).state.nextseqnum = s.nextseqnum := by
  obtain ⟨-, -, hnext, -, -⟩ := slideIfFirst_frame (a == seqFirst s) (markAcked (ackTarget s a) s)
  exact hnext

/-- The two answers to an accepted acknowledgment. -/
theorem acceptAck_response (a : Word) (s : SenderState) :
    (acceptAck a s).response = respond .ackNew ∨ (acceptAck a s).response = respond .ackNewSlide := by
  cases h : a == seqFirst s
  · exact .inl (by simp [acceptAck, h])
  · exact .inr (by simp [acceptAck, h])

/-! ## The slots of the window -/

/-- What a step other than an initialisation makes of the window before it: it keeps every slot, or inserts a packet after
`windowlast` (42_sender_window_fsm.md R85), or marks one slot (R92). -/
inductive WindowChange (before : Vector Slot WINDOWSIZE) (t : State) : Prop
  | kept (window : t.sender.snd_win = before)
  | inserted (p : Packet) (answer : t.response = some ⟨.submitAccepted, 0⟩)
      (bound : t.sender.windowlast.toNat < WINDOWSIZE)
      (window : t.sender.snd_win = memWrite before t.sender.windowlast.toNat ⟨p, false⟩)
  | marked (k : Nat) (answer : t.response = some ⟨.ackNew, 0⟩ ∨ t.response = some ⟨.ackNewSlide, 0⟩)
      (window : t.sender.snd_win = setAcked before k)

/-- `SND.SUBMIT` keeps the slots or inserts. -/
theorem windowChange_sndSubmit (m : Message) (s : State) :
    WindowChange s.sender.snd_win (concludeSender s (sndSubmit m s.sender)) := by
  rcases sndSubmit_cases m s.sender with ⟨-, h⟩ | ⟨-, h⟩ <;> rw [h]
  · have hlast : (nextIndex s.sender.windowlast).toNat < WINDOWSIZE := by
      rw [nextIndex_toNat]; exact Nat.mod_lt _ (by decide)
    exact .inserted _ rfl hlast rfl
  · exact .kept rfl

/-- `SND.PKT` keeps the slots or marks one. -/
theorem windowChange_sndPkt (p : Packet) (s : State) :
    WindowChange s.sender.snd_win (concludeSender s (sndPkt p s.sender)) := by
  rcases sndPkt_cases p s.sender with ⟨-, h⟩ | ⟨-, -, h⟩ | ⟨-, -, -, -, h⟩ <;> rw [h]
  · exact .kept rfl
  · exact .kept rfl
  · exact .marked _ ((acceptAck_response p.acknum s.sender).imp (congrArg some) (congrArg some)) (acceptAck_snd_win _ _)

/-- `SND.TIMEOUT` keeps the slots. -/
theorem windowChange_sndTimeout (s : State) :
    WindowChange s.sender.snd_win (concludeSender s (sndTimeout s.sender)) := by
  rcases sndTimeout_cases s.sender with ⟨-, h⟩ | ⟨-, k, -, -, -, h⟩ | ⟨-, -, h⟩ <;> rw [h] <;> exact .kept rfl

/-- Everything a command other than `SND.INIT` can do to the sender window. -/
theorem exec_windowChange {i : Instr} {s t : State} (h : exec i s = .next t) (hi : i ≠ .sndInit) :
    WindowChange s.sender.snd_win t := by
  by_cases hu : ofUnit 2#2 i
  · rcases (ofUnit_sender_iff i).mp hu with rfl | ⟨m, rfl⟩ | ⟨p, rfl⟩ | rfl
    · exact absurd rfl hi
    · obtain rfl := eq_of_exec_sndSubmit h; exact windowChange_sndSubmit m s
    · obtain rfl := eq_of_exec_sndPkt h; exact windowChange_sndPkt p s
    · obtain rfl := eq_of_exec_sndTimeout h; exact windowChange_sndTimeout s
  · exact .kept (congrArg _ (exec_sender_of_not_ofUnit h hu))

/-- The next input is a reset or `SND.INIT`. -/
abbrev SenderReinitialised (s : State) : Prop :=
  (∃ rest, s.inputs = .reset :: rest) ∨ (∃ w rest, s.inputs = .command w :: rest ∧ decode w = .ok .sndInit)

/-- Everything a step can do to the sender window. -/
theorem step_windowChange {s t : State} (h : step s = .next t) :
    (SenderReinitialised s ∧ t.sender = SenderStateOf.reset) ∨ WindowChange s.sender.snd_win t := by
  rcases step_cases s with ⟨-, hs⟩ | ⟨rest, hin, hs⟩ | ⟨w, rest, i, hin, hd, hs⟩ | ⟨w, rest, e, -, -, hs⟩
  · cases hs.symm.trans h; exact .inr (.kept rfl)
  · cases hs.symm.trans h; exact .inl ⟨.inl ⟨rest, hin⟩, rfl⟩
  · have he := hs.symm.trans h
    by_cases hi : i = .sndInit
    · subst hi
      obtain rfl := eq_of_exec_sndInit he
      exact .inl ⟨.inr ⟨w, rest, hin, hd⟩, rfl⟩
    · exact .inr (exec_windowChange (s := { s with inputs := rest }) he hi)
  · cases hs.symm.trans h; exact .inr (.kept rfl)

/-- A slot that reads as before is no case of R19 or R26. -/
theorem slotUnchanged {before after : Slot} (h : after = before) {set cleared replaced : Prop} :
    (before.acked = false → after.acked = true → set) ∧ (before.acked = true → after.acked = false → cleared)
      ∧ (after.pkt ≠ before.pkt → replaced) := by
  subst h
  exact ⟨fun h0 h1 => absurd (h0.symm.trans h1) (by decide), fun h1 h0 => absurd (h1.symm.trans h0) (by decide),
    fun hne => absurd rfl hne⟩

/-- Settles O49: after an initialisation every flag is 0; an insertion writes a cleared flag and a packet, into its own
slot only; a new acknowledgment sets a flag and keeps every packet; nothing else touches a slot. -/
theorem slotsChangeOnlyAsStated : Obligations.SlotsChangeOnlyAsStated := by
  intro s t i hstep hi
  rcases step_windowChange hstep with ⟨hinit, hreset⟩ | hchange
  · refine ⟨fun _ hset => ?_, fun _ _ => .inr hinit, fun _ => .inr hinit⟩
    simp [hreset] at hset
  · cases hchange with
    | kept window => exact slotUnchanged (by rw [window])
    | inserted p answer bound window =>
      by_cases hslot : t.sender.windowlast.toNat = i
      · refine ⟨fun _ hset => ?_, fun _ _ => .inl ⟨answer, hslot⟩, fun _ => .inl ⟨answer, hslot⟩⟩
        simp [window, hslot] at hset
      · have hother : t.sender.windowlast.toNat % WINDOWSIZE ≠ i % WINDOWSIZE := by
          rwa [Nat.mod_eq_of_lt bound, Nat.mod_eq_of_lt hi]
        exact slotUnchanged (by rw [window, memRead_memWrite_other _ _ _ _ hother])
    | marked k answer window =>
      refine ⟨fun _ _ => answer, fun hflag hcleared => ?_, fun hpkt => ?_⟩
      · have hset : isAcked t.sender.snd_win i = true := by
          rw [window, isAcked_setAcked, isAcked, hflag, ite_self]
        exact absurd (hset.symm.trans hcleared) (by decide)
      · simp [window] at hpkt

/-! ## What the ports see -/

section Ports

variable {P : Nat} (p : PacketOf P) (m : BitVec (8 * P)) (e : Event) (o : List (OutputOf P))

@[simp] theorem deliveries_nil : deliveries ([] : List (OutputOf P)) = [] := rfl
@[simp] theorem deliveries_cons_tx : deliveries (.tx p :: o) = deliveries o := rfl
@[simp] theorem deliveries_cons_deliver : deliveries (.deliver m :: o) = m :: deliveries o := rfl
@[simp] theorem deliveries_cons_timerStart : deliveries (.timerStart :: o) = deliveries o := rfl
@[simp] theorem deliveries_cons_timerStop : deliveries (.timerStop :: o) = deliveries o := rfl
@[simp] theorem deliveries_cons_evt : deliveries (.evt e :: o) = deliveries o := rfl

@[simp] theorem transmitted_nil : transmitted ([] : List (OutputOf P)) = [] := rfl
@[simp] theorem transmitted_cons_tx : transmitted (.tx p :: o) = p :: transmitted o := rfl
@[simp] theorem transmitted_cons_deliver : transmitted (.deliver m :: o) = transmitted o := rfl
@[simp] theorem transmitted_cons_timerStart : transmitted (.timerStart :: o) = transmitted o := rfl
@[simp] theorem transmitted_cons_timerStop : transmitted (.timerStop :: o) = transmitted o := rfl
@[simp] theorem transmitted_cons_evt : transmitted (.evt e :: o) = transmitted o := rfl

@[simp] theorem deliveries_map_deliver (ms : List (BitVec (8 * P))) : deliveries (ms.map OutputOf.deliver) = ms := by
  simp [deliveries, List.filterMap_map]

@[simp] theorem transmitted_map_deliver (ms : List (BitVec (8 * P))) : transmitted (ms.map OutputOf.deliver) = [] := by
  simp [transmitted]

end Ports

/-! ## The responses -/

theorem sndSubmit_code_mem (m : Message) (s : SenderState) :
    (sndSubmit m s).response.code ∈ responsesOf (.sndSubmit m) := by
  rcases sndSubmit_cases m s with ⟨-, h⟩ | ⟨-, h⟩ <;> simp [h, responsesOf, sndAccept, sndReject, respond]

theorem sndPkt_code_mem (p : Packet) (s : SenderState) : (sndPkt p s).response.code ∈ responsesOf (.sndPkt p) := by
  rcases sndPkt_cases p s with ⟨-, h⟩ | ⟨-, -, h⟩ | ⟨-, -, -, -, h⟩ <;> rw [h]
  · simp [responsesOf, respond]
  · simp [responsesOf, respond, duplicateAck]
  · rcases acceptAck_response p.acknum s with hr | hr <;> simp [hr, responsesOf, respond]

theorem sndTimeout_code_mem (s : SenderState) : (sndTimeout s).response.code ∈ responsesOf .sndTimeout := by
  rcases sndTimeout_cases s with ⟨-, h⟩ | ⟨-, k, -, -, -, h⟩ | ⟨-, -, h⟩ <;> simp [h, responsesOf, respond]

theorem rcvPkt_code_mem (p : Packet) (r : ReceiverState) : (rcvPkt p r).response.code ∈ responsesOf (.rcvPkt p) := by
  rcases rcvPkt_cases p r with ⟨-, h⟩ | ⟨-, -, h⟩ | ⟨-, -, -, h⟩ | ⟨-, -, -, h⟩ <;>
    simp [h, responsesOf, respond, respondWith]

/-- Every command answers with one of its own codes (30_encoding.md R57). -/
theorem exec_response {i : Instr} {s t : State} (h : exec i s = .next t) :
    ∃ r, t.response = some r ∧ r.code ∈ responsesOf i := by
  cases i with
  | chkCompute => cases h; exact ⟨_, rfl, by simp [responsesOf, respondWith]⟩
  | chkVerify => cases h; exact ⟨_, rfl, by simp [responsesOf, respondWith]⟩
  | seqAdd a b => cases h; exact ⟨_, rfl, by simpa [responsesOf] using leafSeqAdd_code a b⟩
  | seqSub a b => cases h; exact ⟨_, rfl, by simpa [responsesOf] using leafSeqSub_code a b⟩
  | seqInrange => cases h; exact ⟨_, rfl, by simp [responsesOf, respondWith]⟩
  | sndInit => obtain rfl := eq_of_exec_sndInit h; exact ⟨_, rfl, by simp [responsesOf, respond, sndInit]⟩
  | sndSubmit m =>
    obtain rfl := eq_of_exec_sndSubmit h
    exact ⟨(sndSubmit m s.sender).response, rfl, sndSubmit_code_mem m s.sender⟩
  | sndPkt p =>
    obtain rfl := eq_of_exec_sndPkt h
    exact ⟨(sndPkt p s.sender).response, rfl, sndPkt_code_mem p s.sender⟩
  | sndTimeout =>
    obtain rfl := eq_of_exec_sndTimeout h
    exact ⟨(sndTimeout s.sender).response, rfl, sndTimeout_code_mem s.sender⟩
  | rcvInit => obtain rfl := eq_of_exec_rcvInit h; exact ⟨_, rfl, by simp [responsesOf, respond, rcvInit]⟩
  | rcvPkt p =>
    obtain rfl := eq_of_exec_rcvPkt h
    exact ⟨(rcvPkt p s.receiver).response, rfl, rcvPkt_code_mem p s.receiver⟩

/-- Only `SND.SUBMIT` answers `SUBMIT_ACCEPTED`. -/
theorem submitAccepted_mem_responsesOf {i : Instr} (h : .submitAccepted ∈ responsesOf i) : ∃ m, i = .sndSubmit m := by
  cases i <;> simp [responsesOf] at h ⊢

/-! ## The sequence register of the sender -/

/-- `nextseqnum` after a submission (10_state.md R17). -/
theorem sndSubmit_nextseqnum (m : Message) (s : SenderState) :
    if (sndSubmit m s).response = ⟨.submitAccepted, 0⟩ then (sndSubmit m s).state.nextseqnum = nextSeq s.nextseqnum
    else (sndSubmit m s).state.nextseqnum = s.nextseqnum := by
  rcases sndSubmit_cases m s with ⟨-, h⟩ | ⟨-, h⟩ <;> simp [h, sndAccept, sndReject, respond]

/-- No acknowledgment assigns a number. -/
@[simp] theorem sndPkt_nextseqnum (p : Packet) (s : SenderState) : (sndPkt p s).state.nextseqnum = s.nextseqnum := by
  rcases sndPkt_cases p s with ⟨-, h⟩ | ⟨-, -, h⟩ | ⟨-, -, -, -, h⟩ <;> rw [h]
  · rfl
  · exact acceptAck_nextseqnum _ _

/-- No timeout assigns a number. -/
@[simp] theorem sndTimeout_nextseqnum (s : SenderState) : (sndTimeout s).state.nextseqnum = s.nextseqnum := by
  rcases sndTimeout_cases s with ⟨-, h⟩ | ⟨-, k, -, -, -, h⟩ | ⟨-, -, h⟩ <;> rw [h]

/-- A command other than a submission or `SND.INIT` keeps `nextseqnum`. -/
theorem exec_nextseqnum_kept {i : Instr} {s t : State} (h : exec i s = .next t) (hi : i ≠ .sndInit)
    (hm : ∀ m, i ≠ .sndSubmit m) : t.sender.nextseqnum = s.sender.nextseqnum := by
  by_cases hu : ofUnit 2#2 i
  · rcases (ofUnit_sender_iff i).mp hu with rfl | ⟨m, rfl⟩ | ⟨p, rfl⟩ | rfl
    · exact absurd rfl hi
    · exact absurd rfl (hm m)
    · obtain rfl := eq_of_exec_sndPkt h; simp
    · obtain rfl := eq_of_exec_sndTimeout h; simp
  · rw [exec_sender_of_not_ofUnit h hu]

/-- `nextseqnum` advances by one exactly with an accepted submission. -/
theorem exec_nextseqnum {i : Instr} {s t : State} (h : exec i s = .next t) (hi : i ≠ .sndInit) :
    if t.response = some ⟨.submitAccepted, 0⟩ then t.sender.nextseqnum = nextSeq s.sender.nextseqnum
    else t.sender.nextseqnum = s.sender.nextseqnum := by
  by_cases hm : ∃ m, i = .sndSubmit m
  · obtain ⟨m, rfl⟩ := hm
    obtain rfl := eq_of_exec_sndSubmit h
    simpa using sndSubmit_nextseqnum m s.sender
  · have hother : t.response ≠ some ⟨.submitAccepted, 0⟩ := by
      intro heq
      obtain ⟨r, hr, hcode⟩ := exec_response h
      obtain rfl : r = ⟨.submitAccepted, 0⟩ := by simpa [hr] using heq
      exact hm (submitAccepted_mem_responsesOf hcode)
    rw [if_neg hother]
    exact exec_nextseqnum_kept h hi fun m hsubmit => hm ⟨m, hsubmit⟩

/-! ## The sequence registers of the receiver -/

/-- A sequence register after one advance or more, as a number; one advance brings it into `[0, S)`. -/
theorem nextSeq_iterate_toNat {n : Nat} (e : BitVec SEQ_W) (hn : 0 < n) :
    ((nextSeq ·)^[n] e).toNat = (e.toNat + n) % SEQSPACE := by
  induction n, hn using Nat.le_induction with
  | base => simp
  | succ n _ ih => rw [Function.iterate_succ_apply', nextSeq_toNat, ih, Nat.mod_add_mod, Nat.add_assoc]

/-- Advances of the base advance `expectedseqnum` alike and leave the acknowledgment counter, from any state. -/
theorem advanceBase_iterate_registers (n : Nat) (r : ReceiverState) :
    ((advanceBase ·)^[n] r).expectedseqnum = (nextSeq ·)^[n] r.expectedseqnum
      ∧ ((advanceBase ·)^[n] r).b_nextseqnum = r.b_nextseqnum := by
  induction n with
  | zero => exact ⟨rfl, rfl⟩
  | succ n ih =>
    obtain ⟨hexpected, hcounter⟩ := ih
    simp [Function.iterate_succ_apply', hexpected, hcounter]

/-- The delivery loop advances `expectedseqnum` once for each message it delivers, and leaves the acknowledgment
counter. -/
theorem deliverRun_registers (n : Nat) (r : ReceiverState) :
    (deliverRun n r).1.expectedseqnum = (nextSeq ·)^[(deliverRun n r).2.length] r.expectedseqnum
      ∧ (deliverRun n r).1.b_nextseqnum = r.b_nextseqnum := by
  obtain ⟨m, -, hstate, hmessages, -, -⟩ := deliverRun_spec n r
  have hlength : (deliverRun n r).2.length = m := by simp [hmessages]
  rw [hlength, hstate]
  exact advanceBase_iterate_registers m r

/-- `expectedseqnum` advances once for each message delivered (10_state.md R21). -/
theorem rcvPkt_expectedseqnum (p : Packet) (r : ReceiverState) :
    (rcvPkt p r).state.expectedseqnum = (nextSeq ·)^[(deliveries (rcvPkt p r).outputs).length] r.expectedseqnum := by
  rcases rcvPkt_cases p r with ⟨-, h⟩ | ⟨-, -, h⟩ | ⟨-, -, -, h⟩ | ⟨-, -, -, h⟩ <;> rw [h]
  · rfl
  · rfl
  · rfl
  · obtain ⟨hexpected, -⟩ := deliverRun_registers WINDOWSIZE (storePacket p (countAck r))
    simpa using hexpected

/-- `RCV.PKT` sends nothing and keeps the counter, or sends one acknowledgment and advances the counter (10_state.md
R23). -/
theorem rcvPkt_b_nextseqnum (p : Packet) (r : ReceiverState) :
    (transmitted (rcvPkt p r).outputs = [] ∧ (rcvPkt p r).state.b_nextseqnum = r.b_nextseqnum)
      ∨ (transmitted (rcvPkt p r).outputs = [ackFor p r]
          ∧ (rcvPkt p r).state.b_nextseqnum = nextSeq r.b_nextseqnum) := by
  rcases rcvPkt_cases p r with ⟨-, h⟩ | ⟨-, -, h⟩ | ⟨-, -, -, h⟩ | ⟨-, -, -, h⟩ <;> rw [h]
  · exact .inl ⟨rfl, rfl⟩
  · exact .inr ⟨rfl, rfl⟩
  · exact .inr ⟨rfl, rfl⟩
  · obtain ⟨-, hcounter⟩ := deliverRun_registers WINDOWSIZE (storePacket p (countAck r))
    exact .inr ⟨by simp, by simpa using hcounter⟩

/-- The sender delivers nothing: what its commands hand out is for the channel, the timer and the reporting port. -/
theorem exec_deliveries_of_senderUnit {i : Instr} {s t : State} (h : exec i s = .next t) (hu : ofUnit 2#2 i) :
    deliveries t.outputs = [] := by
  rcases (ofUnit_sender_iff i).mp hu with rfl | ⟨m, rfl⟩ | ⟨p, rfl⟩ | rfl
  · obtain rfl := eq_of_exec_sndInit h
    cases ha : s.sender.timer_armed <;> simp [sndInit, ha]
  · obtain rfl := eq_of_exec_sndSubmit h
    rcases sndSubmit_cases m s.sender with ⟨-, hc⟩ | ⟨-, hc⟩ <;> rw [concludeSender_outputs, hc]
    · simp only [sndAccept]
      split <;> simp
    · simp [sndReject]
  · obtain rfl := eq_of_exec_sndPkt h
    rcases sndPkt_cases p s.sender with ⟨-, hc⟩ | ⟨-, -, hc⟩ | ⟨-, -, -, -, hc⟩ <;> rw [concludeSender_outputs, hc]
    · simp
    · simp [duplicateAck]
    · simp only [acceptAck]
      split <;> simp
  · obtain rfl := eq_of_exec_sndTimeout h
    rcases sndTimeout_cases s.sender with ⟨-, hc⟩ | ⟨-, k, -, -, -, hc⟩ | ⟨-, -, hc⟩ <;> simp [hc]

/-- Only a command of U3 delivers. -/
theorem exec_deliveries_of_not_ofUnit {i : Instr} {s t : State} (h : exec i s = .next t) (hu : ¬ ofUnit 3#2 i) :
    deliveries t.outputs = [] := by
  by_cases h2 : ofUnit 2#2 i
  · exact exec_deliveries_of_senderUnit h h2
  · obtain ⟨r, -, hr⟩ := exec_of_leafUnit h2 hu
    cases (hr s).symm.trans h; rfl

/-- `expectedseqnum` advances once for each message delivered, whatever the command. -/
theorem exec_expectedseqnum {i : Instr} {s t : State} (h : exec i s = .next t) (hi : i ≠ .rcvInit) :
    t.receiver.expectedseqnum = (nextSeq ·)^[(deliveries t.outputs).length] s.receiver.expectedseqnum := by
  by_cases hu : ofUnit 3#2 i
  · obtain ⟨p, rfl⟩ := ((ofUnit_receiver_iff i).mp hu).resolve_left hi
    obtain rfl := eq_of_exec_rcvPkt h
    rw [concludeReceiver_receiver, concludeReceiver_outputs, rcvPkt_expectedseqnum]
  · rw [exec_receiver_of_not_ofUnit h hu, exec_deliveries_of_not_ofUnit h hu]
    rfl

/-- The acknowledgment counter advances by one exactly when a command of U3 sends. -/
theorem exec_b_nextseqnum {i : Instr} {s t : State} (h : exec i s = .next t) (hi : i ≠ .rcvInit) :
    if ofUnit 3#2 i ∧ transmitted t.outputs ≠ [] then t.receiver.b_nextseqnum = nextSeq s.receiver.b_nextseqnum
    else t.receiver.b_nextseqnum = s.receiver.b_nextseqnum := by
  by_cases hu : ofUnit 3#2 i
  · obtain ⟨p, rfl⟩ := ((ofUnit_receiver_iff i).mp hu).resolve_left hi
    obtain rfl := eq_of_exec_rcvPkt h
    rcases rcvPkt_b_nextseqnum p s.receiver with ⟨hsent, hcounter⟩ | ⟨hsent, hcounter⟩ <;>
      simp [hsent, hcounter, ofUnit, opcodeOf]
  · rw [if_neg fun hsend => hu hsend.1, exec_receiver_of_not_ofUnit h hu]

/-- Settles O50: each register after a command is a number of advances of what it was, and an advance is by one modulo
`S`. -/
theorem sequenceRegistersAdvanceOnlyAsStated : Obligations.SequenceRegistersAdvanceOnlyAsStated := by
  intro s t i h hsnd hrcv
  refine ⟨?_, ?_, ?_⟩
  · have hnext := exec_nextseqnum h hsnd
    split_ifs at hnext ⊢
    · rw [hnext, nextSeq_toNat]
    · exact hnext
  · have hexpected := exec_expectedseqnum h hrcv
    split_ifs with hnone
    · simpa [hnone] using hexpected
    · rw [hexpected, nextSeq_iterate_toNat _ (List.length_pos_iff.mpr hnone)]
  · have hcounter := exec_b_nextseqnum h hrcv
    split_ifs at hcounter ⊢
    · rw [hcounter, nextSeq_toNat]
    · exact hcounter

end Sys2Proof.Machine
end

section
/-! What can be read of a packet, of the block and of its command port: the byte image (20_memory.md R36), the debug read
port beside the status outputs (R40; 10_state.md R26, R27), and the command that one step runs (R41). -/

namespace Sys2Proof

open Config

/-! ## The byte image of a packet -/

/-- A slice of a slice that does not leave it is a slice of the whole. -/
theorem extractLsb'_extractLsb'_of_add_le {w start len start' len' : Nat} (v : BitVec w) (inside : start' + len' ≤ len) :
    (v.extractLsb' start len).extractLsb' start' len' = v.extractLsb' (start + start') len' := by
  refine BitVec.eq_of_getLsbD_eq fun i hi => ?_
  simp [hi, show start' + i < len by omega, Nat.add_assoc]

variable {P : Nat} (p : PacketOf P)

/-! Where the fields lie: what the unpacking slices out of a packet's bits is the packet. -/

@[simp] theorem extractLsb'_packetToBits_seqnum : (packetToBits p).extractLsb' 0 32 = p.seqnum :=
  congrArg PacketOf.seqnum (packetOfBits_packetToBits p)

@[simp] theorem extractLsb'_packetToBits_acknum : (packetToBits p).extractLsb' 32 32 = p.acknum :=
  congrArg PacketOf.acknum (packetOfBits_packetToBits p)

@[simp] theorem extractLsb'_packetToBits_checksum : (packetToBits p).extractLsb' 64 32 = p.checksum :=
  congrArg PacketOf.checksum (packetOfBits_packetToBits p)

@[simp] theorem extractLsb'_packetToBits_payload : (packetToBits p).extractLsb' 96 (8 * P) = p.payload :=
  congrArg PacketOf.payload (packetOfBits_packetToBits p)

/-- The bytes of the image from byte `k` on are the bytes, lowest first, of a field that begins at bit `8k`. -/
theorem packetImageByte_add {k len n : Nat} (inside : 8 * n + 8 ≤ len) :
    packetImageByte p (k + n) = ((packetToBits p).extractLsb' (8 * k) len).extractLsb' (8 * n) 8 := by
  rw [packetImageByte, Nat.mul_add, extractLsb'_extractLsb'_of_add_le _ inside]

/-- The first 12 bytes of the image: each field little-endian, the three in field order. -/
theorem packetImageByte_fields {n : Nat} (hn : n < 4) :
    packetImageByte p n = p.seqnum.extractLsb' (8 * n) 8
      ∧ packetImageByte p (4 + n) = p.acknum.extractLsb' (8 * n) 8
      ∧ packetImageByte p (8 + n) = p.checksum.extractLsb' (8 * n) 8 := by
  have inside : 8 * n + 8 ≤ 32 := by omega
  have hseq := packetImageByte_add p (k := 0) inside
  have hack := packetImageByte_add p (k := 4) inside
  have hchk := packetImageByte_add p (k := 8) inside
  exact ⟨by simpa using hseq, by simpa using hack, by simpa using hchk⟩

/-- The rest of the image: the payload bytes in index order. -/
theorem packetImageByte_payload {i : Nat} (hi : i < P) : packetImageByte p (12 + i) = Machine.messageByte p.payload i := by
  have inside : 8 * i + 8 ≤ 8 * P := by omega
  rw [packetImageByte_add p inside, extractLsb'_packetToBits_payload, Machine.messageByte]

/-- Where the payload bytes lie: byte `i` is byte `12 + i` of the image. -/
theorem extractLsb'_packetToBits_payloadByte {i : Nat} (hi : i < P) :
    (packetToBits p).extractLsb' (96 + 8 * i) 8 = p.payload.extractLsb' (8 * i) 8 := by
  have hbyte := packetImageByte_payload p hi
  rwa [packetImageByte, Nat.mul_add] at hbyte

@[simp] theorem packetImage_length : (packetImage p).length = 12 + P := by
  simp [packetImage]

/-- The image lists its bytes in order. -/
theorem packetImage_getElem? {n : Nat} (hn : n < 12 + P) : (packetImage p)[n]? = some (packetImageByte p n) := by
  simp [packetImage, hn]

/-- Settles O5: unpacking inverts packing, so the slices of a packet's bits are its fields, and a byte of the image is a
slice of one field. -/
theorem packetBitsAndImage : Obligations.PacketBitsAndImage :=
  ⟨fun p => ⟨extractLsb'_packetToBits_seqnum p, extractLsb'_packetToBits_acknum p, extractLsb'_packetToBits_checksum p,
      fun _ hi => extractLsb'_packetToBits_payloadByte p hi⟩,
    packetOfBits_packetToBits, packetToBits_packetOfBits, packetImage_length,
    fun p _ hn => ⟨packetImage_getElem? p hn, rfl⟩, fun p _ hn => packetImageByte_fields p hn,
    fun p _ hi => packetImageByte_payload p hi⟩

end Sys2Proof

namespace Sys2Proof.Machine

open Config

/-! ## The debug read port -/

section DebugPort

variable {W idxW cntW seqW P : Nat}

/-- The bits of a slot are `{acked, pkt}`. -/
theorem slotBits_eq_cons (slot : SlotOf P) : slotBits slot = BitVec.cons slot.acked (packetToBits slot.pkt) := by
  refine BitVec.eq_of_getLsbD_eq fun i hi => ?_
  have hflag := getLsbD_setWidth_shiftLeft (k := 96 + 8 * P) (BitVec.ofBool slot.acked) le_rfl i
  rw [slotBits, BitVec.getLsbD_or, hflag, BitVec.getLsbD_cons]
  by_cases htop : i = 96 + 8 * P
  · simp [htop]
  · simp [htop, hi, show ¬ 96 + 8 * P ≤ i by omega]

/-- The top bit of `{b, v}`, by its number. -/
theorem getLsbD_cons_top {n : Nat} (b : Bool) (v : BitVec n) : (BitVec.cons b v).getLsbD n = b := by
  rw [BitVec.getLsbD_cons, if_pos rfl]

/-- A vector widened by one bit is `{0, v}`. -/
theorem setWidth_succ_eq_cons {n : Nat} (v : BitVec n) : v.setWidth (n + 1) = BitVec.cons false v := by
  refine BitVec.eq_of_getLsbD_eq fun i hi => ?_
  rw [BitVec.getLsbD_setWidth, BitVec.getLsbD_cons]
  by_cases htop : i = n
  · simp [htop]
  · simp [htop, hi]

variable [NeZero W] (s : SenderStateOf W idxW cntW seqW P) (r : ReceiverStateOf W idxW seqW P) {idx : BitVec idxW}

/-- The debug port on a sender slot. -/
theorem readSlot_snd (h : idx.toNat < W) :
    readSlot s r .snd idx
      = BitVec.cons (memRead s.snd_win idx.toNat).acked (packetToBits (memRead s.snd_win idx.toNat).pkt) := by
  rw [readSlot, if_pos h, slotBits_eq_cons]

/-- The debug port on a receiver slot. -/
theorem readSlot_rcv (h : idx.toNat < W) :
    readSlot s r .rcv idx = BitVec.cons false (packetToBits (memRead r.rcv_buf idx.toNat)) := by
  rw [readSlot, if_pos h, setWidth_succ_eq_cons]

/-- The debug port at an index not below `W`. -/
theorem readSlot_of_le (space : DebugSpace) (h : W ≤ idx.toNat) : readSlot s r space idx = 0 :=
  if_neg (Nat.not_lt.mpr h)

end DebugPort

/-- Settles O56: the status outputs are the registers by definition, and each slot the debug port shows is a flag, or 0,
above a packet. -/
theorem debugPortShowsTheSlots : Obligations.DebugPortShowsTheSlots := by
  refine ⟨fun _ => rfl, fun s idx => ⟨fun h => ?_, fun h => ?_⟩⟩
  · exact ⟨readSlot_of_le s.sender s.receiver .snd h, readSlot_of_le s.sender s.receiver .rcv h⟩
  · have hsnd : debugSlot s .snd idx = _ := readSlot_snd s.sender s.receiver h
    have hrcv : debugSlot s .rcv idx = _ := readSlot_rcv s.sender s.receiver h
    rw [hsnd, hrcv]
    exact ⟨getLsbD_cons_top _ _, BitVec.setWidth_cons, getLsbD_cons_top _ _, BitVec.setWidth_cons⟩

/-! ## One step -/

section Step

variable {s : State} {w : CmdWord} {rest : List Input}

/-- A presented word that decodes is run. -/
theorem step_of_decode {i : Instr} (hin : s.inputs = .command w :: rest) (hd : decode w = .ok i) :
    step s = exec i { s with inputs := rest } := by
  simp [step, takeInput, hin, hd]

/-- A presented word that is no command raises `ILLEGAL`. -/
theorem step_of_decode_error {e : DecodeError} (hin : s.inputs = .command w :: rest) (hd : decode w = .error e) :
    step s = .next (raiseIllegal { s with inputs := rest }) := by
  simp [step, takeInput, hin, hd]

end Step

/-- Settles O6: an equation for each answer of the decoder. -/
theorem stepRunsTheDecodedCommand : Obligations.StepRunsTheDecodedCommand :=
  fun _ _ _ hin => ⟨fun _ hd => step_of_decode hin hd, fun _ hd => step_of_decode_error hin hd⟩

end Sys2Proof.Machine
end

section
/-! The command words of this hardware: the round trips of decoder and encoder and the bits a command uses (30_encoding.md
R46, R47, R49), the reserved opcodes (R50), that every word completes (R52), and the result that goes with each response
(R57), with the data packet at the sender (R60) as one case. -/

namespace Sys2Proof

open Config

/-! ## What the bits of a packet and of a word keep under a mask -/

section Mask

variable {P : Nat}

/-- A packet with the bits of each field cleared where the mask has a 0. -/
def maskedPacket (p mask : PacketOf P) : PacketOf P :=
  ⟨p.seqnum &&& mask.seqnum, p.acknum &&& mask.acknum, p.checksum &&& mask.checksum, p.payload &&& mask.payload⟩

/-- Masking the fields masks the bits. -/
theorem packetToBits_maskedPacket (p mask : PacketOf P) :
    packetToBits (maskedPacket p mask) = packetToBits p &&& packetToBits mask := by
  refine BitVec.eq_of_getLsbD_eq fun i _ => ?_
  simp only [BitVec.getLsbD_and, getLsbD_packetToBits, maskedPacket]
  split_ifs <;> rfl

/-- Masking the opcode and the operand block masks the command word. -/
theorem formatC_maskedPacket (opcode opcodeMask : BitVec 4) (p mask : PacketOf P) :
    formatC (opcode &&& opcodeMask) (maskedPacket p mask) = formatC opcode p &&& formatC opcodeMask mask := by
  refine BitVec.eq_of_getLsbD_eq fun i _ => ?_
  simp only [BitVec.getLsbD_and, getLsbD_formatC, packetToBits_maskedPacket]
  split_ifs <;> rfl

/-- The operand block with every bit set. -/
def allOnesPacket : PacketOf P := ⟨BitVec.allOnes 32, BitVec.allOnes 32, BitVec.allOnes 32, BitVec.allOnes (8 * P)⟩

end Mask

end Sys2Proof

namespace Sys2Proof.Machine

open Config

/-! ## The encoder -/

@[simp] theorem opcodeField_encode (i : Instr) : opcodeField (encode i) = opcodeOf i := Laws.opcodeField_formatC _ _

@[simp] theorem operandPacket_encode (i : Instr) : operandPacket (encode i) = operandsOf i := operandPacket_formatC _ _

/-- An instruction is its operation and its operand block. -/
@[simp] theorem instrOf_operandsOf (i : Instr) : instrOf (operationOf i) (operandsOf i) = i := by
  cases i <;> rfl

/-- The decoder reads back what the encoder wrote. -/
@[simp] theorem decode_encode (i : Instr) : decode (encode i) = .ok i := by
  rw [decode_eq, opcodeField_encode, operandPacket_encode, opcodeOf_eq, operationAt_opcode, Except.map, instrOf_operandsOf]

/-- A word that encodes a command decodes to it. -/
theorem decode_of_encode_eq {i : Instr} {w : CmdWord} (h : encode i = w) : decode w = .ok i := h ▸ decode_encode i

/-- Settles O1: the opcode of an encoded command gives back its operation, and its operand block its operands. -/
theorem decodeInvertsEncode : Obligations.DecodeInvertsEncode :=
  fun i _ => decode_encode i

/-! ## The decoder -/

/-- What it is for the decoder to answer a command: the opcode map gives its operation, and its operands are those that the
operation uses of the operand block. -/
theorem decode_eq_ok_iff {w : CmdWord} {i : Instr} :
    decode w = .ok i ↔ ∃ op, operationAt (opcodeField w) = .ok op ∧ instrOf op (operandPacket w) = i := by
  rw [decode_eq]
  cases operationAt (opcodeField w) <;> simp [Except.map]

/-- The bits an operation uses are those its encoding keeps of an operand block of ones, and the opcode. -/
theorem usedBits_opcode (op : Operation) :
    usedBits op.opcode = formatC 0xF#4 (operandsOf (instrOf op allOnesPacket)) := by
  cases op <;> decide +kernel

/-- An operand block of ones masks nothing out. -/
@[simp] theorem maskedPacket_allOnesPacket (p : Packet) : maskedPacket p allOnesPacket = p := by
  simp [maskedPacket, allOnesPacket, -BitVec.reduceAllOnes]

/-- An operation keeps an operand field whole or not at all, so what it keeps of a block is the block masked by what it keeps
of a block of ones. -/
theorem operandsOf_instrOf (op : Operation) (p : Packet) :
    operandsOf (instrOf op p) = maskedPacket p (operandsOf (instrOf op allOnesPacket)) := by
  cases op <;> simp [instrOf, operandsOf, maskedPacket, allOnesPacket, -BitVec.reduceAllOnes]

/-- Settles O2: a word is its opcode and its operand block, and what its command keeps of either is what the mask keeps. -/
theorem encodeKeepsTheUsedBits : Obligations.EncodeKeepsTheUsedBits := by
  intro w i hd
  obtain ⟨op, hop, rfl⟩ := decode_eq_ok_iff.mp hd
  have hopcode : op.opcode = opcodeField w := opcode_of_operationAt _ _ hop
  have hword : formatC op.opcode (operandPacket w) = w := by rw [hopcode]; exact formatC_fields w
  calc encode (instrOf op (operandPacket w))
      = formatC op.opcode (operandsOf (instrOf op (operandPacket w))) := by
        rw [encode, opcodeOf_eq, operationOf_instrOf]
    _ = formatC (op.opcode &&& 0xF#4) (maskedPacket (operandPacket w) (operandsOf (instrOf op allOnesPacket))) := by
        rw [operandsOf_instrOf, show op.opcode &&& 0xF#4 = op.opcode from BitVec.and_allOnes]
    _ = w &&& usedBits (opcodeField w) := by rw [formatC_maskedPacket, hword, ← usedBits_opcode, hopcode]

/-- The opcode of a word, as a number. -/
theorem opcodeField_toNat (w : CmdWord) : (opcodeField w).toNat = w.toNat % 16 := by
  simp [opcodeField]

/-- The opcode of a word, from its number. -/
theorem opcodeField_eq_ofNat {w : CmdWord} {k : Nat} (h : w.toNat % 16 = k) : opcodeField w = BitVec.ofNat 4 k := by
  rw [← h, ← opcodeField_toNat, BitVec.ofNat_toNat, BitVec.setWidth_eq]

/-- The reserved opcodes (30_encoding.md R50). -/
abbrev reservedOpcodes : List Nat := [0x2, 0x3, 0x7, 0xE, 0xF]

/-- The opcode map has no operation for exactly the reserved opcodes, and names the one it rejects. -/
theorem operationAt_eq_error_iff {opcode : BitVec 4} {e : DecodeError} :
    operationAt opcode = .error e ↔ opcode.toNat ∈ reservedOpcodes ∧ e = .reservedOpcode opcode := by
  have hlt : opcode.toNat < 16 := opcode.isLt
  unfold operationAt
  split
  case h_12 =>
    have hreserved : opcode.toNat ∈ reservedOpcodes := by
      simp only [imp_false, reservedOpcodes, List.mem_cons, List.not_mem_nil, or_false] at *
      omega
    simp [hreserved, eq_comm]
  all_goals simp [*]

/-- The decoder rejects exactly the words with a reserved opcode, by name. -/
theorem decode_eq_error_iff {w : CmdWord} {e : DecodeError} :
    decode w = .error e ↔ w.toNat % 16 ∈ reservedOpcodes ∧ e = .reservedOpcode (opcodeField w) := by
  rw [decode_eq, ← opcodeField_toNat, ← operationAt_eq_error_iff]
  cases operationAt (opcodeField w) <;> simp [Except.map]

/-- The decoder, with the opcode as a number and the operand slices written out. -/
theorem decode_of_toNat_mod {w : CmdWord} {k : Nat} (h : w.toNat % 16 = k) :
    decode w =
      (operationAt (BitVec.ofNat 4 k)).map fun op => instrOf op ⟨fieldA w, fieldB w, fieldC w, fieldD w⟩ := by
  obtain ⟨ha, hb, hc, hd⟩ := operandPacket_fields w
  rw [decode_eq, opcodeField_eq_ofNat h, ← ha, ← hb, ← hc, ← hd]

/-- Settles O3: at each opcode the map computes to its row. -/
theorem decodeFollowsTheOpcodeMap : Obligations.DecodeFollowsTheOpcodeMap := by
  intro w a b c d op
  have reserved (h : op ∈ reservedOpcodes) : decode w = .error (.reservedOpcode (BitVec.ofNat 4 op)) :=
    decode_eq_error_iff.mpr ⟨h, by rw [opcodeField_eq_ofNat rfl]⟩
  exact ⟨decode_of_toNat_mod, decode_of_toNat_mod, decode_of_toNat_mod, decode_of_toNat_mod, decode_of_toNat_mod,
    decode_of_toNat_mod, decode_of_toNat_mod, decode_of_toNat_mod, decode_of_toNat_mod, decode_of_toNat_mod,
    decode_of_toNat_mod, fun h => reserved (by simpa [reservedOpcodes] using h)⟩

/-- Settles O4: each word is the encoding of its command. -/
theorem writtenWordsDecode : Obligations.WrittenWordsDecode := by
  refine ⟨decode_of_encode_eq ?_, decode_of_encode_eq ?_, decode_of_encode_eq ?_, decode_of_encode_eq ?_⟩ <;>
    decide +kernel

/-! ## Every word completes -/

/-- Settles O7: the decoder rejects the word, and the step raises `ILLEGAL`. -/
theorem reservedOpcodeIsIllegal : Obligations.ReservedOpcodeIsIllegal :=
  fun _ _ _ hin hop =>
    ⟨_, step_of_decode_error hin (decode_eq_error_iff.mpr ⟨hop, rfl⟩), rfl, rfl, rfl, rfl, rfl⟩

/-- Settles O8: a word decodes to a command, which runs to a next state and answers one of its codes, or it is illegal. -/
theorem everyCommandWordCompletes : Obligations.EveryCommandWordCompletes := by
  intro s w rest hin
  cases hd : decode w with
  | ok i =>
    have hexec := exec_eq_react i { s with inputs := rest }
    obtain ⟨r, hr, hcode⟩ := exec_response hexec
    exact ⟨_, r, (step_of_decode hin hd).trans hexec, hr, .inl ⟨i, rfl, hcode⟩⟩
  | error e =>
    obtain ⟨hop, -⟩ := decode_eq_error_iff.mp hd
    exact ⟨_, _, step_of_decode_error hin hd, raiseIllegal_response _, .inr ⟨hop, rfl⟩⟩

/-! ## The data packet at the sender -/

/-- `NOTINUSE` is no sequence number, so it lies in no range. -/
@[simp] theorem seqInrange_notInUse (first last : Nat) : seqInrange first last NOTINUSE.toNat = false := by
  simp [seqInrange, notInUse_not_valid]

/-- Settles O31: `NOTINUSE` lies in no range of sequence numbers, so of the outcomes of `SND.PKT` only the duplicate is
left. -/
theorem dataPacketAtTheSenderIsADuplicate : Obligations.DataPacketAtTheSenderIsADuplicate := by
  intro p s hack hok
  have hdup : sndPkt p s.sender = duplicateAck s.sender := by
    rcases sndPkt_cases p s.sender with ⟨hbad, -⟩ | ⟨-, -, h⟩ | ⟨-, -, hrange, -, -⟩
    · simp [hok] at hbad
    · exact h
    · simp [hack] at hrange
  change Host.Outcome.next (concludeSender s (sndPkt p s.sender)) = _
  rw [hdup]
  rfl

/-! ## The results -/

/-- The delivery loop delivers no more messages than its bound. -/
theorem deliverRun_length_le (n : Nat) (r : ReceiverState) : (deliverRun n r).2.length ≤ n := by
  obtain ⟨m, hm, -, hmessages, -, -⟩ := deliverRun_spec n r
  simpa [hmessages] using hm

/-- The delivery loop delivers the packet at the base if it is the expected one. -/
theorem deliverRun_length_pos {n : Nat} {r : ReceiverState} (hn : 0 < n)
    (h : (basePacket r).seqnum = zextSeq r.expectedseqnum) : 0 < (deliverRun n r).2.length := by
  cases n with
  | zero => exact absurd hn (lt_irrefl 0)
  | succ n => simp [deliverRun, h]

/-- The expected packet is stored at the base, where the delivery loop begins (70_reset_and_hazards.md R157). -/
theorem basePacket_storePacket {p : Packet} {r : ReceiverState}
    (hbase : r.rcv_base.toNat = r.expectedseqnum.toNat % WINDOWSIZE) (hseq : p.seqnum = zextSeq r.expectedseqnum) :
    basePacket (storePacket p (countAck r)) = p := by
  simp [basePacket, hseq, hbase]

/-- What a command answers: a function value with 0xE, the number of messages delivered with 0xD, or 0. -/
inductive Answered (t : State) : Prop
  | value (v : Word) (answer : t.response = some (respondWith .leafResult v))
  | delivered (answer : t.response = some (respondWith .dataDelivered (BitVec.ofNat FIELD_W (deliveries t.outputs).length)))
      (atLeastOne : 1 ≤ (deliveries t.outputs).length) (bound : (deliveries t.outputs).length ≤ WINDOWSIZE)
  | plain (c : RspCode) (other : c ≠ .dataDelivered) (answer : t.response = some (respond c))

/-- A command of U2 answers no number. -/
theorem answered_of_senderUnit {i : Instr} {s t : State} (h : exec i s = .next t) (hu : ofUnit 2#2 i) : Answered t := by
  rcases (ofUnit_sender_iff i).mp hu with rfl | ⟨m, rfl⟩ | ⟨p, rfl⟩ | rfl
  · obtain rfl := eq_of_exec_sndInit h
    exact .plain .initDone (by decide) rfl
  · obtain rfl := eq_of_exec_sndSubmit h
    rcases sndSubmit_cases m s.sender with ⟨-, hc⟩ | ⟨-, hc⟩ <;> rw [hc]
    · exact .plain .submitAccepted (by decide) rfl
    · exact .plain .submitWindowFull (by decide) rfl
  · obtain rfl := eq_of_exec_sndPkt h
    rcases sndPkt_cases p s.sender with ⟨-, hc⟩ | ⟨-, -, hc⟩ | ⟨-, -, -, -, hc⟩ <;> rw [hc]
    · exact .plain .ackCorrupt (by decide) rfl
    · exact .plain .ackDuplicate (by decide) rfl
    · rcases acceptAck_response p.acknum s.sender with hr | hr
      · exact .plain .ackNew (by decide) (congrArg some hr)
      · exact .plain .ackNewSlide (by decide) (congrArg some hr)
  · obtain rfl := eq_of_exec_sndTimeout h
    rcases sndTimeout_cases s.sender with ⟨-, hc⟩ | ⟨-, k, -, -, -, hc⟩ | ⟨-, -, hc⟩ <;> rw [hc]
    · exact .plain .timeoutSpurious (by decide) rfl
    · exact .plain .timeoutRetransmit (by decide) rfl
    · exact .plain .timeoutNothing (by decide) rfl

/-- `RCV.PKT` answers the number of messages it delivers: where it delivers at all, at least the packet it was given. -/
theorem answered_rcvPkt (p : Packet) {s : State}
    (hbase : s.receiver.rcv_base.toNat = s.receiver.expectedseqnum.toNat % WINDOWSIZE) :
    Answered (concludeReceiver s (rcvPkt p s.receiver)) := by
  rcases rcvPkt_cases p s.receiver with ⟨-, h⟩ | ⟨-, -, h⟩ | ⟨-, -, -, h⟩ | ⟨-, -, hseq, h⟩ <;> rw [h]
  · exact .plain .dataCorrupt (by decide) rfl
  · exact .plain .dataOutOfRange (by decide) rfl
  · exact .plain .dataBuffered (by decide) rfl
  · have hfirst : (basePacket (storePacket p (countAck s.receiver))).seqnum
        = zextSeq (storePacket p (countAck s.receiver)).expectedseqnum := by
      rw [basePacket_storePacket hbase hseq]; exact hseq
    have hpos := deliverRun_length_pos (n := WINDOWSIZE) (by decide) hfirst
    have hle := deliverRun_length_le WINDOWSIZE (storePacket p (countAck s.receiver))
    exact .delivered (by simp) (by simpa [Nat.one_le_iff_ne_zero] using hpos.ne') (by simpa using hle)

/-- `SEQ.ADD` answers a function value, or `ILLEGAL` with 0. -/
theorem answered_seqAdd (a b : Word) (s : State) : Answered (conclude s [] (leafSeqAdd a b)) := by
  unfold leafSeqAdd
  split
  · exact .value _ rfl
  · exact .plain .illegal (by decide) rfl

/-- `SEQ.SUB` answers a function value, or `ILLEGAL` with 0. -/
theorem answered_seqSub (a b : Word) (s : State) : Answered (conclude s [] (leafSeqSub a b)) := by
  unfold leafSeqSub
  split
  · exact .value _ rfl
  · exact .plain .illegal (by decide) rfl

/-- A command of U0 or U1 answers a function value or `ILLEGAL`. -/
theorem answered_of_leafUnit {i : Instr} {s t : State} (h : exec i s = .next t) (h2 : ¬ ofUnit 2#2 i)
    (h3 : ¬ ofUnit 3#2 i) : Answered t := by
  cases i with
  | chkCompute => cases h; exact .value _ rfl
  | chkVerify => cases h; exact .value _ rfl
  | seqAdd a b => cases h; exact answered_seqAdd a b s
  | seqSub a b => cases h; exact answered_seqSub a b s
  | seqInrange => cases h; exact .value _ rfl
  | _ => simp [ofUnit, opcodeOf] at h2 h3

/-- Every command answers in one of these ways. -/
theorem exec_answered {i : Instr} {s t : State} (h : exec i s = .next t) (hr : ReceiverInvariant s.receiver) :
    Answered t := by
  by_cases h2 : ofUnit 2#2 i
  · exact answered_of_senderUnit h h2
  by_cases h3 : ofUnit 3#2 i
  · rcases (ofUnit_receiver_iff i).mp h3 with rfl | ⟨p, rfl⟩
    · obtain rfl := eq_of_exec_rcvInit h
      exact .plain .initDone (by decide) rfl
    · obtain rfl := eq_of_exec_rcvPkt h
      obtain ⟨-, -, -, hbase, -⟩ := hr
      exact answered_rcvPkt p hbase
  · exact answered_of_leafUnit h h2 h3

/-- Settles O53: the code is one of the command's own, and the result that goes with it follows from how the command
answers. -/
theorem resultsFollowTheResponse : Obligations.ResultsFollowTheResponse := by
  intro s t i c v hr h hresponse
  have hcode : c ∈ responsesOf i := by
    obtain ⟨r, hsome, hmem⟩ := exec_response h
    obtain rfl : ⟨c, v⟩ = r := by simpa [hresponse] using hsome
    exact hmem
  refine ⟨hcode, by cases c <;> rfl, ?_⟩
  cases exec_answered h hr with
  | value w answer =>
    obtain ⟨rfl, rfl⟩ : c = .leafResult ∧ v = w := by simpa [hresponse, respondWith] using answer
    simp
  | delivered answer atLeastOne bound =>
    obtain ⟨rfl, rfl⟩ : c = .dataDelivered ∧ v = BitVec.ofNat FIELD_W (deliveries t.outputs).length := by
      simpa [hresponse, respondWith] using answer
    have hv : (BitVec.ofNat FIELD_W (deliveries t.outputs).length).toNat = (deliveries t.outputs).length :=
      Nat.mod_eq_of_lt (lt_of_le_of_lt bound (by decide))
    exact ⟨fun _ hne => absurd rfl hne, fun _ => ⟨hv, hv.symm ▸ atLeastOne, hv.symm ▸ bound⟩⟩
  | plain c' other answer =>
    obtain ⟨rfl, rfl⟩ : c = c' ∧ v = 0 := by simpa [hresponse, respond] using answer
    exact ⟨fun _ _ => rfl, fun hd => absurd hd other⟩

end Sys2Proof.Machine
end

section
/-! The checksum unit (40_packet_checksum_unit.md R70 to R73): the bytes of a message, the checksum as a sum over them, what
a changed or exchanged term does to that sum, and the packets the engines build. -/

namespace Sys2Proof.Machine

open Config

/-! ## Payload bytes -/

section Bytes

variable {P : Nat}

/-- A payload byte as a number: a digit of the message to the base 256 (20_memory.md R36). -/
theorem messageByte_toNat (m : BitVec (8 * P)) (i : Nat) : (messageByte m i).toNat = m.toNat / 2 ^ (8 * i) % 256 := by
  simp [messageByte, Nat.shiftRight_eq_div_pow]

/-- The sum of any function of the payload bytes runs over their indices. -/
theorem sum_map_messageBytes (f : Byte → Word) (m : BitVec (8 * P)) :
    ((messageBytes m).map f).sum = ∑ i ∈ Finset.range P, f (messageByte m i) := by
  rw [messageBytes, List.map_map]
  rfl

/-- A message is its first byte and, above it, the message of the other bytes. -/
theorem messageOfBytes_cons (b : Byte) (bytes : List Byte) :
    messageOfBytes (b :: bytes) P = (messageOfBytes bytes P <<< 8) ||| b.setWidth (8 * P) := rfl

/-- Where the bits of a message come from: bit `k` is bit `k % 8` of byte `k / 8`. -/
theorem getLsbD_messageOfBytes (bytes : List Byte) {k : Nat} (hk : k < 8 * P) :
    (messageOfBytes bytes P).getLsbD k = (bytes.getD (k / 8) 0).getLsbD (k % 8) := by
  induction bytes generalizing k with
  | nil => simp [messageOfBytes]
  | cons b bytes ih =>
    rw [messageOfBytes_cons, BitVec.getLsbD_or, BitVec.getLsbD_shiftLeft, BitVec.getLsbD_setWidth]
    rcases Nat.lt_or_ge k 8 with hlow | hhigh
    · simp [hlow, hk, Nat.div_eq_of_lt hlow, Nat.mod_eq_of_lt hlow]
    · have hbyte : k / 8 = (k - 8) / 8 + 1 := by omega
      have hbit : k % 8 = (k - 8) % 8 := by omega
      simp [ih (show k - 8 < 8 * P by omega), hbyte, hbit, hk, Nat.not_lt.mpr hhigh, BitVec.getLsbD_of_ge b k hhigh]

/-- The bytes of a message made of bytes are those bytes. -/
theorem messageByte_messageOfBytes (bytes : List Byte) {i : Nat} (hi : i < P) :
    messageByte (messageOfBytes bytes P) i = bytes.getD i 0 := by
  refine BitVec.eq_of_getLsbD_eq fun k hk => ?_
  have hbyte : (8 * i + k) / 8 = i := by omega
  have hbit : (8 * i + k) % 8 = k := by omega
  rw [messageByte, BitVec.getLsbD_extractLsb', getLsbD_messageOfBytes bytes (by omega), hbyte, hbit]
  simp [hk]

/-- Every byte of the payload of an acknowledgment is the filler (R72). -/
@[simp] theorem messageByte_fillerMessage (filler : Byte) {i : Nat} (hi : i < P) :
    messageByte (fillerMessage P filler) i = filler := by
  rw [fillerMessage, messageByte_messageOfBytes _ hi, List.getD_eq_getElem _ _ (by simpa using hi), List.getElem_replicate]

/-- Above the first byte a message counts 256 times as much. -/
theorem messageOfBytes_cons_eq_add (b : Byte) (bytes : List Byte) :
    messageOfBytes (b :: bytes) P = messageOfBytes bytes P * 256#(8 * P) + b.setWidth (8 * P) := by
  have hdisjoint : (messageOfBytes bytes P <<< 8) &&& b.setWidth (8 * P) = 0#(8 * P) := by
    refine BitVec.eq_of_getLsbD_eq fun k _ => ?_
    rw [BitVec.getLsbD_and, BitVec.getLsbD_shiftLeft, BitVec.getLsbD_setWidth]
    rcases Nat.lt_or_ge k 8 with hlow | hhigh
    · simp [hlow]
    · simp [BitVec.getLsbD_of_ge b k hhigh]
  have hshift : messageOfBytes bytes P <<< 8 = messageOfBytes bytes P * 256#(8 * P) :=
    BitVec.eq_of_toNat_eq (by simp [Nat.shiftLeft_eq])
  rw [messageOfBytes_cons, ← BitVec.add_eq_or_of_and_eq_zero _ _ hdisjoint, hshift]

/-- A message of equal bytes, as a number. -/
theorem messageOfBytes_replicate (b : Byte) (n : Nat) :
    messageOfBytes (List.replicate n b) P = BitVec.ofNat (8 * P) (∑ i ∈ Finset.range n, b.toNat * 2 ^ (8 * i)) := by
  induction n with
  | zero => rfl
  | succ n ih =>
    have hsum : ∑ i ∈ Finset.range (n + 1), b.toNat * 2 ^ (8 * i)
        = (∑ i ∈ Finset.range n, b.toNat * 2 ^ (8 * i)) * 2 ^ 8 + b.toNat := by
      rw [Finset.sum_range_succ', Finset.sum_mul]
      simp [Nat.mul_add, Nat.pow_add, Nat.mul_assoc]
    rw [List.replicate_succ, messageOfBytes_cons_eq_add, ih, hsum, BitVec.ofNat_add, BitVec.ofNat_mul]
    simp

end Bytes

/-! ## The checksum as a sum -/

section Checksum

variable {P : Nat} (seqnum acknum : Word) (m : BitVec (8 * P))

/-- The checksum is a sum of words over the fields and the payload indices. -/
theorem chkWith_eq_sum (ext : ByteExt) :
    chkWith ext seqnum acknum m = seqnum + acknum + ∑ i ∈ Finset.range P, widenByte ext (messageByte m i) := by
  rw [chkWith, sum_map_messageBytes]

/-- A zero-extended byte has the byte's value. -/
theorem widenByte_zero (b : Byte) : widenByte .zero b = BitVec.ofNat FIELD_W b.toNat :=
  (BitVec.ofNat_toNat _ _).symm

/-- A byte widened as this hardware does it has the byte's value. -/
theorem widenByte_BYTE_EXT (b : Byte) : widenByte BYTE_EXT b = BitVec.ofNat FIELD_W b.toNat := widenByte_zero b

/-- A sign-extended byte has the byte's value, and `2^32 - 256` more where bit 7 is set. -/
theorem widenByte_sign (b : Byte) :
    widenByte .sign b = BitVec.ofNat FIELD_W (b.toNat + if b.toNat < 128 then 0 else 2 ^ FIELD_W - 256) := by
  have hlt : b.toNat < 256 := b.isLt
  have hbit7 : b.msb = !decide (b.toNat < 128) := by
    rw [Bool.eq_iff_iff]
    simp [BitVec.msb_eq_decide]
  apply BitVec.eq_of_toNat_eq
  rw [widenByte, BitVec.toNat_signExtend, hbit7, BitVec.toNat_setWidth, BitVec.toNat_ofNat]
  by_cases hsmall : b.toNat < 128
  · simp [hsmall]
  · simp only [hsmall, FIELD_W, decide_false, Bool.not_false, if_true, if_false]
    omega

/-- The two extensions agree on a byte whose bit 7 is clear. -/
theorem widenByte_sign_of_lt {b : Byte} (h : b.toNat < 0x80) : widenByte .sign b = widenByte .zero b := by
  rw [widenByte_sign, widenByte_zero, if_pos h, Nat.add_zero]

/-- Both extensions keep the byte in the low bits. -/
theorem setWidth_widenByte (ext : ByteExt) (b : Byte) : (widenByte ext b).setWidth 8 = b := by
  cases ext with
  | zero => exact BitVec.setWidth_setWidth_of_le b (by decide)
  | sign =>
    refine BitVec.eq_of_getLsbD_eq fun i hi => ?_
    simp [widenByte, BitVec.getElem_signExtend, hi, show i < FIELD_W from hi.trans (by decide)]

theorem widenByte_injective (ext : ByteExt) : Function.Injective (widenByte ext) :=
  Function.LeftInverse.injective (setWidth_widenByte ext)

/-- A sum of numbers modulo `2^32`, as a sum of words. -/
theorem ofNat_sum_mod (f : Nat → Nat) :
    BitVec.ofNat FIELD_W ((seqnum.toNat + acknum.toNat + ∑ i ∈ Finset.range P, f i) % 2 ^ FIELD_W)
      = seqnum + acknum + ∑ i ∈ Finset.range P, BitVec.ofNat FIELD_W (f i) := by
  have hsum : BitVec.ofNat FIELD_W (∑ i ∈ Finset.range P, f i) = ∑ i ∈ Finset.range P, BitVec.ofNat FIELD_W (f i) :=
    Nat.cast_sum _ f
  rw [← hsum]
  apply BitVec.eq_of_toNat_eq
  simp

/-- The checksum with zero-extended bytes, as arithmetic on numbers (R70). -/
theorem chkWith_zero : chkWith .zero seqnum acknum m = BitVec.ofNat FIELD_W (checksumValue seqnum acknum m) := by
  rw [chkWith_eq_sum, checksumValue, ofNat_sum_mod]
  simp only [widenByte_zero, messageByte_toNat]

/-- The checksum with sign-extended bytes, as arithmetic on numbers (R70). -/
theorem chkWith_sign : chkWith .sign seqnum acknum m = BitVec.ofNat FIELD_W (signedChecksumValue seqnum acknum m) := by
  rw [chkWith_eq_sum, signedChecksumValue, ofNat_sum_mod]
  simp only [widenByte_sign, messageByte_toNat]

/-- The checksum of this hardware, as arithmetic on numbers. -/
theorem chk_eq_ofNat : chk seqnum acknum m = BitVec.ofNat FIELD_W (checksumValue seqnum acknum m) :=
  chkWith_zero seqnum acknum m

/-- The checksum of this hardware, as a number. -/
theorem chk_toNat : (chk seqnum acknum m).toNat = checksumValue seqnum acknum m := by
  rw [chk_eq_ofNat, BitVec.toNat_ofNat, checksumValue, Nat.mod_mod]

/-! ## Changed terms -/

/-- Two messages' checksums differ by what their bytes differ by. -/
theorem chkWith_sub_chkWith (ext : ByteExt) (m' : BitVec (8 * P)) :
    chkWith ext seqnum acknum m' - chkWith ext seqnum acknum m
      = ∑ i ∈ Finset.range P, (widenByte ext (messageByte m' i) - widenByte ext (messageByte m i)) := by
  rw [chkWith_eq_sum, chkWith_eq_sum, add_sub_add_left_eq_sub, Finset.sum_sub_distrib]

variable {seqnum acknum m} {ext : ByteExt} {m' : BitVec (8 * P)}

/-- One changed byte changes the checksum. -/
theorem chkWith_ne_of_one_byte {i : Nat} (hi : i < P) (hne : messageByte m' i ≠ messageByte m i)
    (hsame : ∀ k < P, k ≠ i → messageByte m' k = messageByte m k) :
    chkWith ext seqnum acknum m' ≠ chkWith ext seqnum acknum m := by
  have hdiff : chkWith ext seqnum acknum m' - chkWith ext seqnum acknum m
      = widenByte ext (messageByte m' i) - widenByte ext (messageByte m i) := by
    rw [chkWith_sub_chkWith]
    refine Finset.sum_eq_single i (fun k hk hki => ?_) (fun hout => absurd (Finset.mem_range.mpr hi) hout)
    rw [hsame k (Finset.mem_range.mp hk) hki, sub_self]
  rw [← sub_ne_zero, hdiff, sub_ne_zero]
  exact (widenByte_injective ext).ne hne

/-- Two bytes may change if their sum, widened, does not. -/
theorem chkWith_eq_of_two_bytes {i j : Nat} (hi : i < P) (hj : j < P) (hij : i ≠ j)
    (hsum : widenByte ext (messageByte m' i) + widenByte ext (messageByte m' j)
      = widenByte ext (messageByte m i) + widenByte ext (messageByte m j))
    (hsame : ∀ k < P, k ≠ i → k ≠ j → messageByte m' k = messageByte m k) :
    chkWith ext seqnum acknum m' = chkWith ext seqnum acknum m := by
  rw [← sub_eq_zero, chkWith_sub_chkWith]
  calc ∑ k ∈ Finset.range P, (widenByte ext (messageByte m' k) - widenByte ext (messageByte m k))
      = (widenByte ext (messageByte m' i) - widenByte ext (messageByte m i))
          + (widenByte ext (messageByte m' j) - widenByte ext (messageByte m j)) := by
        refine Finset.sum_eq_add i j hij (fun k hk hother => ?_) (fun hout => absurd (Finset.mem_range.mpr hi) hout)
          (fun hout => absurd (Finset.mem_range.mpr hj) hout)
        rw [hsame k (Finset.mem_range.mp hk) hother.1 hother.2, sub_self]
    _ = 0 := by rw [sub_add_sub_comm, hsum, sub_self]

/-- The order of the bytes does not matter: exchanging two of them keeps the checksum. -/
theorem chkWith_eq_of_swap {i j : Nat} (hi : i < P) (hj : j < P) (hmi : messageByte m' i = messageByte m j)
    (hmj : messageByte m' j = messageByte m i)
    (hsame : ∀ k < P, k ≠ i → k ≠ j → messageByte m' k = messageByte m k) :
    chkWith ext seqnum acknum m' = chkWith ext seqnum acknum m := by
  by_cases hij : i = j
  · subst hij
    have hall : ∀ k < P, messageByte m' k = messageByte m k := fun k hk => by
      by_cases hki : k = i
      · rw [hki, hmi]
      · exact hsame k hk hki hki
    rw [chkWith_eq_sum, chkWith_eq_sum, Finset.sum_congr rfl fun k hk => congrArg _ (hall k (Finset.mem_range.mp hk))]
  · exact chkWith_eq_of_two_bytes hi hj hij (by rw [hmi, hmj, add_comm]) hsame

end Checksum

/-! ## Corruption -/

section Corruption

variable {P : Nat} {p q : PacketOf P} {ext : ByteExt}

/-- A packet is not corrupted when it carries the checksum of its fields (R71). -/
theorem corrupted_eq_false_iff : corrupted p ext = false ↔ chkWith ext p.seqnum p.acknum p.payload = p.checksum := by
  simp [corrupted, chk]

/-- A packet is corrupted when it carries another number than the checksum of its fields (R71). -/
theorem corrupted_eq_true_iff : corrupted p ext = true ↔ chkWith ext p.seqnum p.acknum p.payload ≠ p.checksum := by
  simp [corrupted, chk]

/-- The verdict depends on a packet's fields only through their checksum. -/
theorem corrupted_congr
    (hsum : chkWith ext q.seqnum q.acknum q.payload = chkWith ext p.seqnum p.acknum p.payload)
    (hcarried : q.checksum = p.checksum) : corrupted q ext = corrupted p ext := by
  rw [corrupted, corrupted, chk, chk, hsum, hcarried]

/-- At the defaults, a packet is not corrupted when the number it carries is the sum of R70. -/
theorem corrupted_eq_false_iff_checksumValue :
    corrupted p = false ↔ checksumValue p.seqnum p.acknum p.payload = p.checksum.toNat := by
  rw [← chk_toNat, BitVec.toNat_inj]
  exact corrupted_eq_false_iff

end Corruption

/-! ## Packets the engines build (R72) -/

section Built

variable {P : Nat}

/-- A packet built with its checksum carries it. -/
@[simp] theorem corrupted_buildPacket (seqnum acknum : Word) (m : BitVec (8 * P)) (ext : ByteExt) :
    corrupted (buildPacket seqnum acknum m ext) ext = false :=
  corrupted_eq_false_iff.mpr rfl

/-- The sum of R70 over a payload of fillers. -/
theorem checksumValue_fillerMessage (seqnum acknum : Word) (filler : Byte) :
    checksumValue seqnum acknum (fillerMessage P filler)
      = (seqnum.toNat + acknum.toNat + P * filler.toNat) % 2 ^ FIELD_W := by
  have hbyte : ∀ i ∈ Finset.range P, (fillerMessage P filler).toNat / 2 ^ (8 * i) % 256 = filler.toNat := fun i hi => by
    rw [← messageByte_toNat, messageByte_fillerMessage filler (Finset.mem_range.mp hi)]
  rw [checksumValue, Finset.sum_const_nat hbyte, Finset.card_range]

/-- The acknowledgment packet is the one of 43_receiver_reorder_fsm.md R108. -/
theorem ackPacket_eq_writtenAck (own : BitVec SEQ_W) (e : Word) : ackPacket own e = writtenAck own e := by
  have hchecksum : chk (zextSeq own) e (fillerMessage PAYLOAD_BYTES FILLER)
      = BitVec.ofNat FIELD_W (own.toNat + e.toNat + PAYLOAD_BYTES * FILLER.toNat) := by
    apply BitVec.eq_of_toNat_eq
    rw [chk_toNat, checksumValue_fillerMessage, zextSeq_toNat, BitVec.toNat_ofNat]
  rw [ackPacket, buildPacket, hchecksum, fillerMessage, messageOfBytes_replicate]
  rfl

end Built

/-! ## The commands -/

/-- `CHK.COMPUTE` answers the checksum. -/
theorem exec_chkCompute (seqnum acknum : Word) (m : Message) (s : State) :
    exec (.chkCompute seqnum acknum m) s
      = .next { s with outputs := [], response := some ⟨.leafResult, chk seqnum acknum m⟩ } := rfl

/-- `CHK.VERIFY` answers the verdict. -/
theorem exec_chkVerify (p : Packet) (s : State) :
    exec (.chkVerify p) s
      = .next { s with outputs := [], response := some ⟨.leafResult, if corrupted p then 1 else 0⟩ } := rfl

/-- `CHK.COMPUTE` of a block with any parameters answers the checksum under its `BYTE_EXT`. -/
theorem react_chkCompute (c : Params) [NeZero c.windowSize] (p : PacketOf c.payloadBytes) (b : BlockOf c) :
    react ⟨.chkCompute, p⟩ b = ⟨b, [], ⟨.leafResult, chkWith c.byteExt p.seqnum p.acknum p.payload⟩⟩ := rfl

/-- The words of `CHK.COMPUTE`. -/
theorem decode_chkCompute {w : CmdWord} (h : opcodeField w = 0x0#4) :
    decode w = .ok (.chkCompute (fieldA w) (fieldB w) (fieldD w)) := by
  obtain ⟨ha, hb, -, hd⟩ := operandPacket_fields w
  rw [← ha, ← hb, ← hd]
  exact decode_eq_ok_iff.mpr ⟨.chkCompute, by rw [h]; rfl, rfl⟩

/-- The words of `CHK.VERIFY`. -/
theorem decode_chkVerify {w : CmdWord} (h : opcodeField w = 0x1#4) :
    decode w = .ok (.chkVerify (operandPacket w)) :=
  decode_eq_ok_iff.mpr ⟨.chkVerify, by rw [h]; rfl, rfl⟩

/-! ## The statements -/

/-- Settles O12: the command answers the checksum, and the checksum under either extension is that sum of numbers. -/
theorem chkComputeAnswersTheSum : Obligations.ChkComputeAnswersTheSum := by
  refine ⟨fun _ => decode_chkCompute, fun seqnum acknum m s => ?_, fun c _ p b => ?_⟩
  · rw [exec_chkCompute, chk_eq_ofNat]
  · rw [react_chkCompute]
    cases c.byteExt with
    | zero => rw [chkWith_zero]
    | sign => rw [chkWith_sign]

/-- Settles O13: the two sums agree term by term. -/
theorem byteExtensionMattersFromBit7 : Obligations.ByteExtensionMattersFromBit7 := by
  intro seqnum acknum m hsmall
  have hterms := Finset.sum_congr rfl fun i hi => widenByte_sign_of_lt (hsmall i (Finset.mem_range.mp hi))
  rw [chkWith_eq_sum, chkWith_eq_sum, hterms]

/-- Settles O14: the command answers the verdict, and the verdict compares that sum of numbers with the carried one. -/
theorem chkVerifyAnswersTheComparison : Obligations.ChkVerifyAnswersTheComparison := by
  refine ⟨fun _ => decode_chkVerify, fun p s => ?_⟩
  rw [exec_chkVerify]
  by_cases hsum : checksumValue p.seqnum p.acknum p.payload = p.checksum.toNat
  · rw [corrupted_eq_false_iff_checksumValue.mpr hsum, if_pos hsum]
    rfl
  · have hbad : corrupted p = true := by simpa using mt corrupted_eq_false_iff_checksumValue.mp hsum
    rw [hbad, if_neg hsum]
    rfl

/-- Settles O15: the engines compute the checksum of what they build, and fill acknowledgments with fillers. -/
theorem builtPacketsAreNotCorrupted : Obligations.BuiltPacketsAreNotCorrupted :=
  ⟨fun _ _ => ⟨rfl, rfl, rfl, chk_toNat _ _ _, corrupted_buildPacket _ _ _ _⟩,
    fun own e => ⟨ackPacket_eq_writtenAck own e, corrupted_buildPacket _ _ _ _⟩⟩

/-- Settles O16: the sum is injective in each of its terms, and the carried checksum is compared with it whole. -/
theorem singleChangeIsDetected : Obligations.SingleChangeIsDetected := by
  intro p q hp hdiffer
  have hcarried := corrupted_eq_false_iff.mp hp
  rw [corrupted_eq_true_iff]
  rcases hdiffer with ⟨hseq, hack, hchk, hpay⟩ | ⟨hseq, hack, hchk, hpay⟩ | ⟨hseq, hack, hchk, hpay⟩
    | ⟨hseq, hack, hchk, i, hi, hbyte, hothers⟩
  · rw [hack, hchk, hpay, ← hcarried]
    simpa [chkWith] using hseq
  · rw [hseq, hchk, hpay, ← hcarried]
    simpa [chkWith] using hack
  · rw [hseq, hack, hpay, hcarried]
    exact hchk.symm
  · rw [hseq, hack, hchk, ← hcarried]
    exact chkWith_ne_of_one_byte hi hbyte hothers

/-- Settles O17: what two of the terms lose and gain cancels in the sum, and a sum does not see the order of its terms. -/
theorem cancellingChangesAreMissed : Obligations.CancellingChangesAreMissed := by
  refine ⟨fun p m i j x hi hj hij hup hdown hothers => ?_, fun p x => ?_, fun p m i j hi hj hmi hmj hothers => ?_⟩
  · refine corrupted_congr (chkWith_eq_of_two_bytes hi hj hij ?_ hothers) rfl
    simp only [widenByte_BYTE_EXT, ← BitVec.ofNat_add]
    congr 1
    omega
  · refine corrupted_congr ?_ rfl
    simp only [chkWith, add_add_sub_cancel]
  · exact corrupted_congr (chkWith_eq_of_swap hi hj hmi hmj hothers) rfl

end Sys2Proof.Machine
end

section
/-! The sequence unit (41_sequence_modulo_comparator.md R76 to R80): arithmetic modulo `S` by one conditional correction, the
distance as a walk, the circular range, and the commands `SEQ.ADD`, `SEQ.SUB` and `SEQ.INRANGE`. -/

namespace Sys2Proof.Machine

open Config

/-! ## Sums and distances -/

section Arithmetic

variable {first last x y k n : Nat}

/-- The sum of sequence numbers, by one conditional subtraction (R76). -/
theorem seqAdd_eq (hx : x < SEQSPACE) (hy : y < SEQSPACE) :
    seqAdd x y = if x + y < SEQSPACE then x + y else x + y - SEQSPACE := by
  rw [seqAdd]
  split_ifs with h
  · exact Nat.mod_eq_of_lt h
  · rw [Nat.mod_eq_sub_mod (by omega), Nat.mod_eq_of_lt (by omega)]

/-- `k` steps forward from `first` reach `x` exactly when `k` is the distance from `first` to `x`. -/
theorem seqAdd_eq_iff (hfirst : first < SEQSPACE) (hx : x < SEQSPACE) (hk : k < SEQSPACE) :
    seqAdd first k = x ↔ seqSub x first = k := by
  rw [seqAdd_eq hfirst hk, seqSub_eq x first hx hfirst]
  split_ifs <;> omega

/-- The distance to where `k` steps lead is `k`. -/
theorem seqSub_seqAdd (hfirst : first < SEQSPACE) (hk : k < SEQSPACE) : seqSub (seqAdd first k) first = k :=
  (seqAdd_eq_iff hfirst (seqAdd_lt first k) hk).mp rfl

/-! ## The circular range -/

/-- The range test, by distances (R78). -/
theorem seqInrange_iff :
    seqInrange first last x = true ↔
      first < SEQSPACE ∧ last < SEQSPACE ∧ x < SEQSPACE ∧ seqSub x first ≤ seqSub last first := by
  simp [seqInrange, seqValid, and_assoc]

/-- A walk from `first` reaches `x` no later than `last` exactly when `x` is no farther from `first` than `last` is. -/
theorem exists_walk_iff (hfirst : first < SEQSPACE) (hlast : last < SEQSPACE) (hx : x < SEQSPACE) :
    (∃ k < SEQSPACE, (first + k) % SEQSPACE = x ∧ ∀ j < k, (first + j) % SEQSPACE ≠ last)
      ↔ seqSub x first ≤ seqSub last first := by
  constructor
  · rintro ⟨k, hk, hreach, hearlier⟩
    rw [(seqAdd_eq_iff hfirst hx hk).mp hreach]
    by_contra hlater
    exact hearlier _ (not_le.mp hlater) ((seqAdd_eq_iff hfirst hlast (seqSub_lt last first)).mpr rfl)
  · intro hle
    refine ⟨_, seqSub_lt x first, (seqAdd_eq_iff hfirst hx (seqSub_lt x first)).mpr rfl, fun j hj hreach => ?_⟩
    have hdist : seqSub last first = j := (seqAdd_eq_iff hfirst hlast (hj.trans (seqSub_lt x first))).mp hreach
    omega

/-- The distances from `first` compare as the two-case form says (R79). -/
theorem seqSub_le_seqSub_iff (hfirst : first < SEQSPACE) (hlast : last < SEQSPACE) (hx : x < SEQSPACE) :
    seqSub x first ≤ seqSub last first
      ↔ if first ≤ last then first ≤ x ∧ x ≤ last else first ≤ x ∨ x ≤ last := by
  rw [seqSub_eq x first hx hfirst, seqSub_eq last first hlast hfirst]
  split_ifs <;> omega

/-- The range of the `n` numbers from `first` on holds those at a distance below `n`. -/
theorem seqInrange_seqAdd_iff (hfirst : first < SEQSPACE) (hx : x < SEQSPACE) (hpos : 0 < n) (hn : n ≤ SEQSPACE) :
    seqInrange first (seqAdd first (n - 1)) x = true ↔ seqSub x first < n := by
  rw [seqInrange_iff, seqSub_seqAdd hfirst (by omega), Nat.le_sub_one_iff_lt hpos]
  simp [hfirst, hx, seqAdd_lt]

/-- A number is within `W` of the point `W` before `first` exactly when it is not within `W` of `first`, because `S = 2W`
(R80). -/
theorem seqSub_seqSub_windowSize_lt_iff (hfirst : first < SEQSPACE) (hx : x < SEQSPACE) :
    seqSub x (seqSub first WINDOWSIZE) < WINDOWSIZE ↔ WINDOWSIZE ≤ seqSub x first := by
  rw [seqSub_eq x _ hx (seqSub_lt _ _), seqSub_eq first _ hfirst (by decide), seqSub_eq x first hx hfirst]
  simp only [SEQSPACE, WINDOWSIZE] at *
  split_ifs <;> omega

/-- The number before `first` ends the `W` numbers that begin `W` before it. -/
theorem seqSub_one_eq_seqAdd (hfirst : first < SEQSPACE) :
    seqSub first 1 = seqAdd (seqSub first WINDOWSIZE) (WINDOWSIZE - 1) := by
  rw [seqAdd_eq (seqSub_lt _ _) (by decide), seqSub_eq first 1 hfirst (by decide), seqSub_eq first _ hfirst (by decide)]
  simp only [SEQSPACE, WINDOWSIZE] at *
  split_ifs <;> omega

end Arithmetic

/-- The acceptance range, as a distance from `expectedseqnum` (43_receiver_reorder_fsm.md R109). -/
theorem acceptable_iff {r : ReceiverState} {x : Word} (he : r.expectedseqnum.toNat < SEQSPACE) (hx : x.toNat < SEQSPACE) :
    acceptable r x = true ↔ seqSub x.toNat r.expectedseqnum.toNat < WINDOWSIZE :=
  seqInrange_seqAdd_iff he hx (by decide) (by decide)

/-! ## The commands -/

/-- The decoder at a known opcode, with the operand slices written out. -/
theorem decode_of_opcodeField {w : CmdWord} {opcode : BitVec 4} (h : opcodeField w = opcode) :
    decode w = (operationAt opcode).map fun op => instrOf op ⟨fieldA w, fieldB w, fieldC w, fieldD w⟩ := by
  have hmod : w.toNat % 16 = opcode.toNat := by rw [← opcodeField_toNat, h]
  rw [decode_of_toNat_mod hmod, BitVec.ofNat_toNat, BitVec.setWidth_eq]

/-- `SEQ.ADD` answers as its function says. -/
theorem exec_seqAdd (a b : Word) (s : State) :
    exec (.seqAdd a b) s = .next { s with outputs := [], response := some (leafSeqAdd a b) } := rfl

/-- `SEQ.SUB` answers as its function says. -/
theorem exec_seqSub (a b : Word) (s : State) :
    exec (.seqSub a b) s = .next { s with outputs := [], response := some (leafSeqSub a b) } := rfl

/-- `SEQ.INRANGE` answers the verdict of the range test, in any equivalent form. -/
theorem exec_seqInrange_of_iff {first last x : Word} {InRange : Prop} [Decidable InRange]
    (h : seqInrange first.toNat last.toNat x.toNat = true ↔ InRange) (s : State) :
    exec (.seqInrange first last x) s
      = .next { s with outputs := [], response := some ⟨.leafResult, if InRange then 1 else 0⟩ } := by
  rw [← if_congr h rfl rfl]
  rfl

/-- The answer of `SEQ.ADD`, in the arithmetic of words. -/
theorem leafSeqAdd_eq (a b : Word) :
    leafSeqAdd a b =
      if a.toNat < SEQSPACE ∧ b.toNat < SEQSPACE then
        ⟨.leafResult, if a.toNat + b.toNat < SEQSPACE then a + b else a + b - BitVec.ofNat 32 SEQSPACE⟩
      else ⟨.illegal, 0⟩ := by
  have hsum : BitVec.ofNat FIELD_W (a.toNat + b.toNat) = a + b := by simp [BitVec.ofNat_add]
  simp only [leafSeqAdd, seqValid, Bool.and_eq_true, decide_eq_true_eq, respondWith, respond]
  refine ite_congr rfl (fun ⟨ha, hb⟩ => ?_) fun _ => rfl
  rw [seqAdd_eq ha hb, ← hsum]
  split_ifs with hlt
  · rfl
  · rw [BitVec.ofNat_sub_ofNat_of_le _ _ (by decide) (not_lt.mp hlt)]

/-- The answer of `SEQ.SUB`, in the arithmetic of words. -/
theorem leafSeqSub_eq (a b : Word) :
    leafSeqSub a b =
      if a.toNat < SEQSPACE ∧ b.toNat < SEQSPACE then
        ⟨.leafResult, if b.toNat ≤ a.toNat then a - b else a + BitVec.ofNat 32 SEQSPACE - b⟩
      else ⟨.illegal, 0⟩ := by
  have hsub {n : Nat} (hle : b.toNat ≤ n) : BitVec.ofNat FIELD_W (n - b.toNat) = BitVec.ofNat FIELD_W n - b := by
    simp [← BitVec.ofNat_sub_ofNat_of_le n _ b.isLt hle]
  simp only [leafSeqSub, seqValid, Bool.and_eq_true, decide_eq_true_eq, respondWith, respond]
  refine ite_congr rfl (fun ⟨ha, hb⟩ => ?_) fun _ => rfl
  rw [seqSub_eq _ _ ha hb]
  split_ifs with hle
  · rw [hsub hle, BitVec.ofNat_toNat, BitVec.setWidth_eq]
  · rw [hsub (by omega), BitVec.ofNat_add, BitVec.ofNat_toNat, BitVec.setWidth_eq]

/-! ## The statements -/

/-- Settles O18: the sum modulo `S` needs one conditional subtraction, which words do without loss. -/
theorem seqAddIsAdditionModuloS : Obligations.SeqAddIsAdditionModuloS :=
  ⟨fun _ => decode_of_opcodeField, fun a b s => by rw [exec_seqAdd, leafSeqAdd_eq]⟩

/-- Settles O19: the distance needs `S` added once on a borrow, which words do without loss. -/
theorem seqSubIsCircularDistance : Obligations.SeqSubIsCircularDistance :=
  ⟨fun _ => decode_of_opcodeField, fun a b s => by rw [exec_seqSub, leafSeqSub_eq]⟩

/-- Settles O20: the steps of the walk to a number are its distance. -/
theorem seqInrangeIsCircularContainment : Obligations.SeqInrangeIsCircularContainment := by
  refine ⟨fun _ => decode_of_opcodeField, fun first last x s => exec_seqInrange_of_iff ?_ s⟩
  rw [seqInrange_iff]
  exact and_congr_right fun hfirst => and_congr_right fun hlast => and_congr_right fun hx =>
    (exists_walk_iff hfirst hlast hx).symm

/-- Settles O21: the comparison of the distances, by cases on whether the range straddles the wrap. -/
theorem seqInrangeHasTheTwoCaseForm : Obligations.SeqInrangeHasTheTwoCaseForm := by
  refine fun first last x s => exec_seqInrange_of_iff ?_ s
  rw [seqInrange_iff]
  exact and_congr_right fun hfirst => and_congr_right fun hlast => and_congr_right fun hx =>
    seqSub_le_seqSub_iff hfirst hlast hx

/-- Settles O22: both ranges hold `W` numbers, and the second begins half the space before the first. -/
theorem everyNumberIsNewOrOld : Obligations.EveryNumberIsNewOrOld := by
  intro r x he hx
  rw [acceptable_iff he hx, seqSub_one_eq_seqAdd he, ← Bool.not_eq_true,
    seqInrange_seqAdd_iff (seqSub_lt _ _) hx (by decide) (by decide), seqSub_seqSub_windowSize_lt_iff he hx, not_le]

end Sys2Proof.Machine
end

section
/-! The commands of U2 (42_sender_window_fsm.md R83 to R102), in every state: which test selects which branch, the order of
the output records (R102; 43_receiver_reorder_fsm.md R115), what an initialisation and a submission do, and what changes
nothing. -/

namespace Sys2Proof.Machine

open Config

/-! ## The commands -/

section Commands

variable (s : State)

theorem exec_sndInit : exec .sndInit s = .next (concludeSender s (sndInit s.sender)) := rfl
theorem exec_sndSubmit (m : Message) : exec (.sndSubmit m) s = .next (concludeSender s (sndSubmit m s.sender)) := rfl
theorem exec_sndPkt (p : Packet) : exec (.sndPkt p) s = .next (concludeSender s (sndPkt p s.sender)) := rfl
theorem exec_sndTimeout : exec .sndTimeout s = .next (concludeSender s (sndTimeout s.sender)) := rfl

/-- A reaction that keeps the sender only answers. -/
theorem concludeSender_kept (o : List Output) (r : Response) :
    concludeSender s ⟨s.sender, o, r⟩ = { s with outputs := o, response := some r } := rfl

end Commands

section Branches

variable {s : SenderState} {p : Packet}

/-- R85: below a full window a message is accepted. -/
theorem sndSubmit_of_lt (m : Message) (h : liveCount s < WINDOWSIZE) : sndSubmit m s = sndAccept m s := if_pos h

/-- R84: at a full window it is not. -/
theorem sndSubmit_of_not_lt (m : Message) (h : ¬ liveCount s < WINDOWSIZE) : sndSubmit m s = sndReject s := if_neg h

/-- R87: a corrupted packet. -/
theorem sndPkt_of_corrupted (h : corrupted p = true) : sndPkt p s = ⟨s, [], respond .ackCorrupt⟩ := if_pos h

/-- Of an uncorrupted packet only `acknum` matters. -/
theorem sndPkt_congr {q : Packet} (hp : corrupted p = false) (hq : corrupted q = false) (hack : q.acknum = p.acknum) :
    sndPkt q s = sndPkt p s := by
  simp [sndPkt, hp, hq, hack]

/-- The tests of R88, R89 and R90 that make an acknowledgment of `a` a new one. -/
abbrev NewAck (s : SenderState) (a : Word) : Prop :=
  liveCount s ≠ 0 ∧ seqInrange (seqFirst s).toNat (seqLast s).toNat a.toNat = true
    ∧ isAcked s.snd_win (ackTarget s a) = false

/-- R92: an uncorrupted packet that passes the tests. -/
theorem sndPkt_of_newAck (hp : corrupted p = false) (h : NewAck s p.acknum) : sndPkt p s = acceptAck p.acknum s := by
  obtain ⟨hlive, hrange, hunacked⟩ := h
  simp [sndPkt, hp, hlive, hrange, hunacked]

/-- R91: an uncorrupted packet that fails one of them. -/
theorem sndPkt_of_not_newAck (hp : corrupted p = false) (h : ¬ NewAck s p.acknum) : sndPkt p s = duplicateAck s := by
  rcases sndPkt_cases p s with ⟨hbad, -⟩ | ⟨-, -, hdup⟩ | ⟨-, hlive, hrange, hunacked, -⟩
  · simp [hp] at hbad
  · exact hdup
  · exact absurd ⟨hlive, hrange, hunacked⟩ h

/-- R96: a timeout of a timer that is not armed. -/
theorem sndTimeout_of_not_armed (h : s.timer_armed = false) : sndTimeout s = ⟨s, [], respond .timeoutSpurious⟩ := by
  simp [sndTimeout, h]

end Branches

/-! ## The records of each command, in their order -/

theorem sndInit_outputs (s : SenderState) : (sndInit s).outputs = if s.timer_armed then [.timerStop] else [] := rfl

/-- R102 for `SND.SUBMIT`. -/
theorem sndSubmit_outputs (m : Message) (s : SenderState) :
    (sndSubmit m s).outputs = [.evt .windowFull]
      ∨ ∃ p, (sndSubmit m s).outputs = [.tx p] ∨ (sndSubmit m s).outputs = [.tx p, .timerStart] := by
  rcases sndSubmit_cases m s with ⟨-, h⟩ | ⟨-, h⟩ <;> rw [h]
  · refine .inr ⟨dataPacket s.nextseqnum m, ?_⟩
    dsimp only [sndAccept]
    split
    · exact .inr rfl
    · exact .inl rfl
  · exact .inl rfl

/-- An accepted acknowledgment stops the timer and starts it again where a packet is still outstanding (R94). -/
theorem acceptAck_outputs (a : Word) (s : SenderState) :
    (acceptAck a s).outputs = [.evt .ackRx, .evt .newAck, .timerStop]
      ∨ (acceptAck a s).outputs = [.evt .ackRx, .evt .newAck, .timerStop, .timerStart] := by
  dsimp only [acceptAck]
  split
  · exact .inr rfl
  · exact .inl rfl

/-- R102 for `SND.PKT`. -/
theorem sndPkt_outputs (p : Packet) (s : SenderState) :
    (sndPkt p s).outputs = [] ∨ (sndPkt p s).outputs = [.evt .ackRx]
      ∨ (sndPkt p s).outputs = [.evt .ackRx, .evt .newAck, .timerStop]
      ∨ (sndPkt p s).outputs = [.evt .ackRx, .evt .newAck, .timerStop, .timerStart] := by
  rcases sndPkt_cases p s with ⟨-, h⟩ | ⟨-, -, h⟩ | ⟨-, -, -, -, h⟩ <;> rw [h]
  · exact .inl rfl
  · exact .inr (.inl rfl)
  · exact .inr (.inr (acceptAck_outputs p.acknum s))

/-- An uncorrupted packet raises `ACK_RX` first (R87). -/
theorem sndPkt_outputs_of_not_corrupted {p : Packet} (s : SenderState) (hp : corrupted p = false) :
    ∃ rest, (sndPkt p s).outputs = .evt .ackRx :: rest := by
  by_cases hnew : NewAck s p.acknum
  · rw [sndPkt_of_newAck hp hnew]
    exact ⟨_, rfl⟩
  · rw [sndPkt_of_not_newAck hp hnew]
    exact ⟨_, rfl⟩

/-- R102 for `SND.TIMEOUT`. -/
theorem sndTimeout_outputs (s : SenderState) :
    (sndTimeout s).outputs = [] ∨ ∃ p, (sndTimeout s).outputs = [.tx p, .evt .retransmit, .timerStart] := by
  rcases sndTimeout_cases s with ⟨-, h⟩ | ⟨-, k, -, -, -, h⟩ | ⟨-, -, h⟩ <;> rw [h]
  · exact .inl rfl
  · exact .inr ⟨_, rfl⟩
  · exact .inl rfl

/-- R115 for `RCV.PKT`. -/
theorem rcvPkt_outputs (p : Packet) (r : ReceiverState) :
    (rcvPkt p r).outputs = [] ∨ ∃ (q : Packet) (ms : List Message),
      (rcvPkt p r).outputs = [.evt .dataRx, .tx q] ++ ms.map .deliver := by
  rcases rcvPkt_cases p r with ⟨-, h⟩ | ⟨-, -, h⟩ | ⟨-, -, -, h⟩ | ⟨-, -, -, h⟩ <;> rw [h]
  · exact .inl rfl
  · exact .inr ⟨ackFor p r, [], rfl⟩
  · exact .inr ⟨ackFor p r, [], rfl⟩
  · exact .inr ⟨ackFor p r, _, rfl⟩

/-- Settles O52: the branches of each command, read for their records. -/
theorem outputsComeInTheOrderOfTheRules : Obligations.OutputsComeInTheOrderOfTheRules := by
  intro s t i h
  cases i with
  | chkCompute => cases h; rfl
  | chkVerify => cases h; rfl
  | seqAdd => cases h; rfl
  | seqSub => cases h; rfl
  | seqInrange => cases h; rfl
  | sndInit =>
    obtain rfl := eq_of_exec_sndInit h
    cases harmed : s.sender.timer_armed <;> simp [sndInit_outputs, harmed]
  | sndSubmit m =>
    obtain rfl := eq_of_exec_sndSubmit h
    simpa only [concludeSender_outputs] using sndSubmit_outputs m s.sender
  | sndPkt p =>
    obtain rfl := eq_of_exec_sndPkt h
    simpa only [concludeSender_outputs] using sndPkt_outputs p s.sender
  | sndTimeout =>
    obtain rfl := eq_of_exec_sndTimeout h
    simpa only [concludeSender_outputs] using sndTimeout_outputs s.sender
  | rcvInit => cases h; rfl
  | rcvPkt p =>
    obtain rfl := eq_of_exec_rcvPkt h
    simpa only [concludeReceiver_outputs] using rcvPkt_outputs p s.receiver

/-! ## Initialisation, and what changes nothing -/

/-- Settles O23: the row of the opcode map, and the reset record. -/
theorem sndInitRestoresTheSender : Obligations.SndInitRestoresTheSender :=
  ⟨fun _ => decode_of_opcodeField, senderResetRows_reset, fun _ => rfl⟩

/-- Settles O24: the admission test fails. -/
theorem submitIsRejectedWhenFull : Obligations.SubmitIsRejectedWhenFull := by
  intro m s hfull
  rw [exec_sndSubmit, sndSubmit_of_not_lt m hfull, sndReject, concludeSender_kept]
  rfl

/-- Settles O26: the first test is of corruption, and the tests after it read `acknum` alone. -/
theorem corruptedAckIsIgnored : Obligations.CorruptedAckIsIgnored := by
  intro p s
  refine ⟨fun hbad => ?_, fun hok => ?_, fun hok q hq hack => ?_⟩
  · rw [exec_sndPkt, sndPkt_of_corrupted hbad, concludeSender_kept]
    rfl
  · obtain ⟨rest, hrest⟩ := sndPkt_outputs_of_not_corrupted s.sender hok
    exact ⟨_, rest, exec_sndPkt s p, (concludeSender_outputs _ _).trans hrest⟩
  · rw [exec_sndPkt, exec_sndPkt, sndPkt_congr hok hq hack]

/-- A live slot, read at an index that is not reduced modulo `W`. -/
theorem memRead_windowfirst_add (s : SenderState) (k : Nat) :
    memRead s.snd_win (s.windowfirst.toNat + k) = liveSlot s k := (memRead_mod _ _).symm

/-- Settles O27: each of the three outcomes fails a test of a new acknowledgment. -/
theorem duplicateAckIsIgnored : Obligations.DuplicateAckIsIgnored := by
  intro p s hok houtcome
  have hdup : ¬ NewAck s.sender p.acknum := by
    rintro ⟨hlive, hrange, hunacked⟩
    rcases houtcome with hempty | hout | hacked
    · exact hlive hempty
    · exact absurd (hrange.symm.trans hout) (by decide)
    · rw [memRead_windowfirst_add] at hacked
      exact absurd (hacked.symm.trans hunacked) (by decide)
  rw [exec_sndPkt, sndPkt_of_not_newAck hok hdup, duplicateAck, concludeSender_kept]
  rfl

/-- Settles O32: the shadow bit is tested first. -/
theorem spuriousTimeoutIsDiscarded : Obligations.SpuriousTimeoutIsDiscarded := by
  intro s hstopped
  rw [exec_sndTimeout, sndTimeout_of_not_armed hstopped, concludeSender_kept]
  rfl

/-! ## Submission -/

/-- The count after a submission below a full window. -/
theorem windowcount_add_one_toNat {s : SenderState} (h : liveCount s < WINDOWSIZE) :
    (s.windowcount + 1).toNat = s.windowcount.toNat + 1 := by
  have hroom : s.windowcount.toNat + (1 : BitVec CNT_W).toNat < 2 ^ CNT_W := by
    simp only [liveCount, WINDOWSIZE] at h
    change s.windowcount.toNat + 1 < 8
    omega
  exact BitVec.toNat_add_of_lt hroom

/-- The packet that an accepted submission builds (R72, R85). -/
theorem dataPacket_eq (n : BitVec SEQ_W) (m : Message) :
    dataPacket n m
      = ⟨n.setWidth 32, NOTINUSE, BitVec.ofNat 32 (checksumValue (n.setWidth 32) NOTINUSE m), m⟩ := by
  rw [dataPacket, buildPacket, chk_eq_ofNat]
  rfl

/-- The packet is the only one outstanding where none was before. -/
theorem windowcount_add_one_beq_one {s : SenderState} :
    (s.windowcount + 1 == 1) = decide (s.windowcount.toNat = 0) := by
  rw [Bool.eq_iff_iff]
  simp [← BitVec.toNat_inj]

/-- An accepted submission: every register, the slots, and the records. -/
theorem sndAccept_eq (m : Message) (s : SenderState) :
    sndAccept m s =
      { state :=
          { s with
            windowlast := nextIndex s.windowlast
            snd_win := memWrite s.snd_win (nextIndex s.windowlast).toNat ⟨dataPacket s.nextseqnum m, false⟩
            windowcount := s.windowcount + 1
            timer_armed := if s.windowcount.toNat = 0 then true else s.timer_armed
            nextseqnum := nextSeq s.nextseqnum }
        outputs := .tx (dataPacket s.nextseqnum m) :: (if s.windowcount.toNat = 0 then [.timerStart] else [])
        response := respond .submitAccepted } := by
  simp only [sndAccept, windowcount_add_one_beq_one, decide_eq_true_eq]

/-- Settles O25: the accepted submission of R85, register by register. -/
theorem submitIsAcceptedBelowFull : Obligations.SubmitIsAcceptedBelowFull := by
  intro m s hbelow p last
  have hlast : (nextIndex s.sender.windowlast).toNat = last := nextIndex_toNat _
  have hp : dataPacket s.sender.nextseqnum m = p := dataPacket_eq _ m
  refine ⟨_, exec_sndSubmit s m, ?_⟩
  rw [sndSubmit_of_lt m hbelow, sndAccept_eq, hlast, hp]
  refine ⟨hlast, memRead_memWrite_same _ _ _, fun i hi hne => ?_, windowcount_add_one_toNat hbelow, rfl, rfl,
    nextSeq_toNat _, ?_, rfl, rfl, rfl⟩
  · refine memRead_memWrite_other _ _ _ _ ?_
    rw [Nat.mod_eq_of_lt hi, Nat.mod_eq_of_lt (Nat.mod_lt _ (by decide))]
    exact hne.symm
  · by_cases hnone : s.sender.windowcount.toNat = 0 <;> simp [hnone]

end Sys2Proof.Machine
end

section
/-! The live slots of a good sender (70_reset_and_hazards.md R150 to R155): how their numbers, flags and counts hang together,
and from that which acknowledgment is new (42_sender_window_fsm.md R88 to R92) and what a timeout resends (R95, R97). -/

namespace Sys2Proof.Machine

open Config

/-! ## Numbers, flags and counts -/

section LiveSlots

variable {s : SenderState} {j k : Nat}

/-- `seqfirst` is the number in the oldest slot. -/
theorem seqFirst_eq_liveSlot (s : SenderState) : seqFirst s = (liveSlot s 0).pkt.seqnum :=
  congrArg (fun slot : Slot => slot.pkt.seqnum) (memRead_windowfirst_add s 0)

/-- The flag of a live slot. -/
theorem isAcked_windowIndex (s : SenderState) (k : Nat) : isAcked s.snd_win (windowIndex s k) = (liveSlot s k).acked := rfl

/-- The flag at `windowfirst`. -/
theorem isAcked_windowfirst (s : SenderState) : isAcked s.snd_win s.windowfirst.toNat = (liveSlot s 0).acked :=
  congrArg SlotOf.acked (memRead_windowfirst_add s 0)

/-- Two places of the window less than `W` after `windowfirst` are two slots. -/
theorem windowIndex_inj (hj : j < WINDOWSIZE) (hk : k < WINDOWSIZE) : windowIndex s j = windowIndex s k ↔ j = k := by
  simp only [windowIndex, WINDOWSIZE] at *
  omega

theorem SenderInvariant.liveCount_le (hs : SenderInvariant s) : liveCount s ≤ WINDOWSIZE := by
  obtain ⟨⟨-, hlive, -, -, -⟩, -, -, -, -, -⟩ := hs
  exact hlive

theorem SenderInvariant.liveCount_le_seqspace (hs : SenderInvariant s) : liveCount s ≤ SEQSPACE :=
  hs.liveCount_le.trans (by decide)

theorem SenderInvariant.ackcount_lt (hs : SenderInvariant s) : s.ackcount.toNat < WINDOWSIZE := by
  obtain ⟨⟨hack, -, -, -, -⟩, -, -, -, -, -⟩ := hs
  exact Nat.lt_of_le_pred (by decide) hack

theorem SenderInvariant.windowfirst_lt (hs : SenderInvariant s) : s.windowfirst.toNat < WINDOWSIZE := by
  obtain ⟨⟨-, -, hfirst, -, -⟩, -, -, -, -, -⟩ := hs
  exact hfirst

theorem SenderInvariant.windowIndex_zero (hs : SenderInvariant s) : windowIndex s 0 = s.windowfirst.toNat :=
  Nat.mod_eq_of_lt hs.windowfirst_lt

/-- R152: the live numbers follow one another. -/
theorem SenderInvariant.seqnum_toNat (hs : SenderInvariant s) (hk : k < liveCount s) :
    (liveSlot s k).pkt.seqnum.toNat = seqAdd (seqFirst s).toNat k := by
  obtain ⟨-, -, ⟨hlive, -⟩, -, -, -⟩ := hs
  obtain ⟨hnumber, -, -⟩ := hlive k hk
  exact hnumber

/-- R153: the oldest live slot is not acknowledged. -/
theorem SenderInvariant.oldest_unacked (hs : SenderInvariant s) (h : 0 < liveCount s) : (liveSlot s 0).acked = false := by
  obtain ⟨-, -, -, hold, -, -⟩ := hs
  rw [← isAcked_windowfirst]
  exact hold h

/-- R155: the timer runs exactly while a packet is outstanding. -/
theorem SenderInvariant.timer_armed_iff (hs : SenderInvariant s) : s.timer_armed = true ↔ 1 ≤ s.windowcount.toNat := by
  obtain ⟨-, -, -, -, -, htimer⟩ := hs
  exact htimer

/-- The live numbers are sequence numbers, the first of them too. -/
theorem SenderInvariant.seqFirst_lt (hs : SenderInvariant s) (h : 0 < liveCount s) : (seqFirst s).toNat < SEQSPACE := by
  rw [seqFirst_eq_liveSlot, hs.seqnum_toNat h]
  exact seqAdd_lt _ _

/-- R151: `windowlast` is the newest live slot. -/
theorem SenderInvariant.windowlast_toNat (hs : SenderInvariant s) (h : 0 < liveCount s) :
    s.windowlast.toNat = windowIndex s (liveCount s - 1) := by
  obtain ⟨⟨-, -, -, hlast, -⟩, hfollows, -, -, -, -⟩ := hs
  simp only [LastFollowsFirst, windowIndex, WINDOWSIZE] at *
  omega

/-- `seqlast` ends the `L` numbers that begin with `seqfirst`. -/
theorem SenderInvariant.seqLast_toNat (hs : SenderInvariant s) (h : 0 < liveCount s) :
    (seqLast s).toNat = seqAdd (seqFirst s).toNat (liveCount s - 1) := by
  rw [seqLast, hs.windowlast_toNat h]
  exact hs.seqnum_toNat (Nat.sub_one_lt h.ne')

/-- R90: the number in a live slot targets that slot. -/
theorem SenderInvariant.ackTarget_liveSlot (hs : SenderInvariant s) (hk : k < liveCount s) :
    ackTarget s (liveSlot s k).pkt.seqnum = windowIndex s k := by
  have hspace : k < SEQSPACE := hk.trans_le hs.liveCount_le_seqspace
  rw [ackTarget, hs.seqnum_toNat hk, seqSub_seqAdd (hs.seqFirst_lt (Nat.zero_lt_of_lt hk)) hspace]

/-- A number lies in the window's range exactly when a live slot holds it. -/
theorem SenderInvariant.seqInrange_live_iff (hs : SenderInvariant s) (h : 0 < liveCount s) (a : Word) :
    seqInrange (seqFirst s).toNat (seqLast s).toNat a.toNat = true
      ↔ ∃ k < liveCount s, (liveSlot s k).pkt.seqnum = a := by
  have hspace := hs.liveCount_le_seqspace
  have hfirst := hs.seqFirst_lt h
  rw [hs.seqLast_toNat h]
  constructor
  · intro hrange
    obtain ⟨-, -, ha, -⟩ := seqInrange_iff.mp hrange
    have hlt := (seqInrange_seqAdd_iff hfirst ha h hspace).mp hrange
    refine ⟨_, hlt, BitVec.eq_of_toNat_eq ?_⟩
    rw [hs.seqnum_toNat hlt, (seqAdd_eq_iff hfirst ha (seqSub_lt _ _)).mpr rfl]
  · rintro ⟨k, hk, rfl⟩
    rw [hs.seqnum_toNat hk, seqInrange_seqAdd_iff hfirst (seqAdd_lt _ _) h hspace,
      seqSub_seqAdd hfirst (hk.trans_le hspace)]
    exact hk

/-- The tests of R88 to R90 pass exactly for the number of a live slot that is not acknowledged. -/
theorem SenderInvariant.newAck_iff (hs : SenderInvariant s) (a : Word) :
    NewAck s a ↔ ∃ k < liveCount s, (liveSlot s k).pkt.seqnum = a ∧ (liveSlot s k).acked = false := by
  constructor
  · rintro ⟨hlive, hrange, hunacked⟩
    obtain ⟨k, hk, rfl⟩ := (hs.seqInrange_live_iff (Nat.pos_of_ne_zero hlive) a).mp hrange
    rw [hs.ackTarget_liveSlot hk] at hunacked
    exact ⟨k, hk, rfl, hunacked⟩
  · rintro ⟨k, hk, rfl, hunacked⟩
    have hpos : 0 < liveCount s := Nat.zero_lt_of_lt hk
    refine ⟨hpos.ne', (hs.seqInrange_live_iff hpos _).mpr ⟨k, hk, rfl⟩, ?_⟩
    rw [hs.ackTarget_liveSlot hk]
    exact hunacked

/-! The counts are counts of flags over the places of the live slots (R154). -/

theorem SenderInvariant.ackcount_toNat (hs : SenderInvariant s) :
    s.ackcount.toNat = Nat.count (fun k => (liveSlot s k).acked = true) (liveCount s) := by
  obtain ⟨-, -, -, -, ⟨hacked, -⟩, -⟩ := hs
  rw [← hacked, liveIndices, List.countP_map, Nat.count]
  simp [Function.comp_def, isAcked]

theorem SenderInvariant.windowcount_toNat (hs : SenderInvariant s) :
    s.windowcount.toNat = Nat.count (fun k => (liveSlot s k).acked = false) (liveCount s) := by
  obtain ⟨-, -, -, -, ⟨-, hunacked⟩, -⟩ := hs
  rw [← hunacked, liveIndices, List.countP_map, Nat.count]
  simp [Function.comp_def, isAcked]

/-- The oldest live slot is counted. -/
theorem SenderInvariant.windowcount_pos (hs : SenderInvariant s) (h : 0 < liveCount s) : 0 < s.windowcount.toNat := by
  rw [hs.windowcount_toNat]
  simpa using Nat.count_strict_mono (p := fun k => (liveSlot s k).acked = false) (hs.oldest_unacked h) h

/-- A later live slot that is not acknowledged is counted too. -/
theorem SenderInvariant.two_le_windowcount (hs : SenderInvariant s) (hpos : 0 < k) (hk : k < liveCount s)
    (hunacked : (liveSlot s k).acked = false) : 2 ≤ s.windowcount.toNat := by
  have hold := hs.oldest_unacked (hpos.trans hk)
  have hbefore := Nat.count_strict_mono (p := fun k => (liveSlot s k).acked = false) hold hpos
  have hcount := Nat.count_strict_mono (p := fun k => (liveSlot s k).acked = false) hunacked hk
  rw [hs.windowcount_toNat]
  omega

end LiveSlots

/-! ## Timeouts -/

/-- R95: what a timeout does where `k` is the first place of the window not acknowledged. -/
theorem sndTimeout_of_oldest {s : SenderState} {k : Nat} (harmed : s.timer_armed = true) (hk : k < liveCount s)
    (hunacked : (liveSlot s k).acked = false) (hall : ∀ j < k, (liveSlot s j).acked = true) :
    sndTimeout s = ⟨s, [.tx (liveSlot s k).pkt, .evt .retransmit, .timerStart], respond .timeoutRetransmit⟩ := by
  rcases sndTimeout_cases s with ⟨hstopped, -⟩ | ⟨-, i, -, hi, hbefore, h⟩ | ⟨-, hnone, -⟩
  · exact absurd (harmed.symm.trans hstopped) (by decide)
  · obtain rfl : i = k := by
      rcases lt_trichotomy i k with hlt | heq | hgt
      · exact absurd (hi.symm.trans (hall i hlt)) (by decide)
      · exact heq
      · exact absurd ((hbefore k hgt).symm.trans hunacked) (by decide)
    rw [h, ← harmed]
  · exact absurd ((hnone k hk).symm.trans hunacked) (by decide)

/-- R97: what a timeout does where every live slot is acknowledged. -/
theorem sndTimeout_of_all_acked {s : SenderState} (harmed : s.timer_armed = true)
    (hall : ∀ k < liveCount s, (liveSlot s k).acked = true) :
    sndTimeout s = ⟨{ s with timer_armed := false }, [], respond .timeoutNothing⟩ := by
  rcases sndTimeout_cases s with ⟨hstopped, -⟩ | ⟨-, k, hk, hunacked, -, -⟩ | ⟨-, -, h⟩
  · exact absurd (harmed.symm.trans hstopped) (by decide)
  · exact absurd ((hall k hk).symm.trans hunacked) (by decide)
  · exact h

/-- R95 in a good sender: the packet at `windowfirst` is resent. -/
theorem SenderInvariant.sndTimeout_of_armed {s : SenderState} (hs : SenderInvariant s) (harmed : s.timer_armed = true) :
    sndTimeout s
      = ⟨s, [.tx (liveSlot s 0).pkt, .evt .retransmit, .timerStart], respond .timeoutRetransmit⟩ := by
  have hlive : 0 < liveCount s := Nat.lt_of_lt_of_le (hs.timer_armed_iff.mp harmed) (Nat.le_add_right _ _)
  exact sndTimeout_of_oldest harmed hlive (hs.oldest_unacked hlive) (by simp)

/-- Settles O33: the scan ends at the first unacknowledged place. -/
theorem timeoutRetransmitsTheOldestUnacked : Obligations.TimeoutRetransmitsTheOldestUnacked := by
  intro s k harmed hk hunacked hall
  simp only [memRead_windowfirst_add] at hunacked hall ⊢
  rw [exec_sndTimeout, sndTimeout_of_oldest harmed hk hunacked hall, concludeSender_kept]
  rfl

/-- Settles O34: the scan finds nothing. -/
theorem timeoutWithNothingToRetransmit : Obligations.TimeoutWithNothingToRetransmit := by
  intro s harmed hall
  simp only [memRead_windowfirst_add] at hall
  rw [exec_sndTimeout, sndTimeout_of_all_acked harmed hall]
  rfl

/-- Settles O35: while the timer runs some packet is outstanding, and then the oldest is. -/
theorem goodTimeoutRetransmitsTheFirstSlot : Obligations.GoodTimeoutRetransmitsTheFirstSlot := by
  intro s hs harmed
  have hfirst : memRead s.sender.snd_win s.sender.windowfirst.toNat = liveSlot s.sender 0 :=
    memRead_windowfirst_add s.sender 0
  rw [hfirst, exec_sndTimeout, hs.sndTimeout_of_armed harmed, concludeSender_kept]
  rfl

/-! ## New acknowledgments -/

/-- An accepted acknowledgment is told by its response. -/
theorem sndPkt_response_iff {p : Packet} {s : SenderState} (hp : corrupted p = false) :
    ((sndPkt p s).response = respond .ackNew ∨ (sndPkt p s).response = respond .ackNewSlide) ↔ NewAck s p.acknum := by
  by_cases hnew : NewAck s p.acknum
  · rw [sndPkt_of_newAck hp hnew]
    exact iff_of_true (acceptAck_response _ _) hnew
  · rw [sndPkt_of_not_newAck hp hnew]
    exact iff_of_false (by simp [duplicateAck, respond]) hnew

/-- Settles O28: the tests of a new acknowledgment, in terms of the live slots. -/
theorem ackIsNewExactlyForAnUnackedLiveNumber : Obligations.AckIsNewExactlyForAnUnackedLiveNumber := by
  intro p s hs hok
  refine ⟨_, exec_sndPkt s p, ?_⟩
  rw [concludeSender_response, ← hs.newAck_iff, ← sndPkt_response_iff hok]
  simp [respond]

end Sys2Proof.Machine
end

section
/-! What a new acknowledgment does in a good sender (42_sender_window_fsm.md R92 to R94): the slot it marks, how far the window
slides, and with that the sender as a machine of three phases (R99). -/

namespace Sys2Proof.Machine

open Config

/-! ## What a new acknowledgment does -/

section NewAcks

variable {s : SenderState} {k n : Nat}

/-- The number in a live slot is `seqfirst` in the oldest slot only. -/
theorem SenderInvariant.seqnum_eq_seqFirst_iff (hs : SenderInvariant s) (hk : k < liveCount s) :
    (liveSlot s k).pkt.seqnum = seqFirst s ↔ k = 0 := by
  refine ⟨fun heq => ?_, fun hzero => by rw [hzero, seqFirst_eq_liveSlot]⟩
  have hpos : 0 < liveCount s := Nat.zero_lt_of_lt hk
  have htarget : windowIndex s k = windowIndex s 0 := by
    rw [← hs.ackTarget_liveSlot hk, heq, seqFirst_eq_liveSlot, hs.ackTarget_liveSlot hpos]
  exact (windowIndex_inj (hk.trans_le hs.liveCount_le) (by decide)).mp htarget

/-- The counts after marking a live slot (R92). -/
theorem SenderInvariant.markAcked_ackcount_toNat (hs : SenderInvariant s) (i : Nat) :
    (markAcked i s).ackcount.toNat = s.ackcount.toNat + 1 := by
  have hroom : s.ackcount.toNat + (1 : BitVec CNT_W).toNat < 2 ^ CNT_W :=
    lt_of_le_of_lt hs.ackcount_lt (by decide)
  exact BitVec.toNat_add_of_lt hroom

theorem SenderInvariant.markAcked_windowcount_toNat (hs : SenderInvariant s) (h : 0 < liveCount s) (i : Nat) :
    (markAcked i s).windowcount.toNat = s.windowcount.toNat - 1 :=
  BitVec.toNat_sub_of_le (BitVec.le_def.mpr (hs.windowcount_pos h))

/-- The target of an acknowledgment of live slot `k` marked, and the window slid if that is the oldest slot (R92, R93). -/
def ackedWindow (s : SenderState) (k : Nat) : SenderState :=
  slideIfFirst (decide (k = 0)) (markAcked (windowIndex s k) s)

theorem ackedWindow_of_pos (hpos : 0 < k) : ackedWindow s k = markAcked (windowIndex s k) s := by
  rw [ackedWindow, decide_eq_false hpos.ne']
  rfl

theorem ackedWindow_zero (s : SenderState) :
    ackedWindow s 0 = slide (markAcked (windowIndex s 0) s).ackcount.toNat (markAcked (windowIndex s 0) s) := rfl

/-- An acknowledgment marks its slot and lowers `windowcount`; besides, it can move `windowfirst` and `ackcount` only. -/
theorem ackedWindow_frame (s : SenderState) (k : Nat) :
    (ackedWindow s k).windowlast = s.windowlast ∧ (ackedWindow s k).windowcount = s.windowcount - 1
      ∧ (ackedWindow s k).nextseqnum = s.nextseqnum
      ∧ (ackedWindow s k).snd_win = setAcked s.snd_win (windowIndex s k) := by
  obtain ⟨hlast, hcount, hnext, -, hwin⟩ := slideIfFirst_frame (decide (k = 0)) (markAcked (windowIndex s k) s)
  exact ⟨hlast, hcount, hnext, hwin⟩

theorem SenderInvariant.ackedWindow_windowcount_toNat (hs : SenderInvariant s) (hk : k < liveCount s) :
    (ackedWindow s k).windowcount.toNat + 1 = s.windowcount.toNat := by
  have hpos : 0 < liveCount s := Nat.zero_lt_of_lt hk
  obtain ⟨-, hcount, -, -⟩ := ackedWindow_frame s k
  have hmarked := hs.markAcked_windowcount_toNat hpos (windowIndex s k)
  rw [markAcked_windowcount] at hmarked
  rw [hcount, hmarked, Nat.sub_add_cancel (hs.windowcount_pos hpos)]

/-- The slots after an acknowledgment of live slot `k`: that one is marked. -/
theorem memRead_ackedWindow_same (s : SenderState) (k : Nat) :
    memRead (ackedWindow s k).snd_win (windowIndex s k) = ⟨(liveSlot s k).pkt, true⟩ := by
  obtain ⟨-, -, -, hwin⟩ := ackedWindow_frame s k
  rw [hwin, memRead_setAcked, if_pos rfl]

/-- The others stay as they were. -/
theorem memRead_ackedWindow_other {i : Nat} (hi : i < WINDOWSIZE) (hne : i ≠ windowIndex s k) :
    memRead (ackedWindow s k).snd_win i = memRead s.snd_win i := by
  obtain ⟨-, -, -, hwin⟩ := ackedWindow_frame s k
  have hslot : windowIndex s k % WINDOWSIZE ≠ i % WINDOWSIZE := by
    rw [Nat.mod_eq_of_lt (windowIndex_lt s k), Nat.mod_eq_of_lt hi]
    exact hne.symm
  rw [hwin, memRead_setAcked, if_neg hslot]

/-- What the acknowledgment of live slot `k` does (R92 to R94). -/
def ackReaction (s : SenderState) (k : Nat) : Reaction SenderState where
  state := { ackedWindow s k with timer_armed := decide (1 < s.windowcount.toNat) }
  outputs := [.evt .ackRx, .evt .newAck, .timerStop] ++ (if 1 < s.windowcount.toNat then [.timerStart] else [])
  response := respond (if k = 0 then .ackNewSlide else .ackNew)

theorem SenderInvariant.acceptAck_liveSlot (hs : SenderInvariant s) (hk : k < liveCount s) :
    acceptAck (liveSlot s k).pkt.seqnum s = ackReaction s k := by
  have hfirst : ((liveSlot s k).pkt.seqnum == seqFirst s) = decide (k = 0) :=
    decide_eq_decide.mpr (hs.seqnum_eq_seqFirst_iff hk)
  have hcount := hs.ackedWindow_windowcount_toNat hk
  have houtstanding : 1 ≤ (ackedWindow s k).windowcount.toNat ↔ 1 < s.windowcount.toNat := by omega
  have hwindow : slideIfFirst (decide (k = 0)) (markAcked (windowIndex s k) s) = ackedWindow s k := rfl
  simp only [acceptAck, hfirst, hs.ackTarget_liveSlot hk, hwindow, houtstanding, decide_eq_true_eq, ackReaction]

theorem SenderInvariant.sndPkt_liveSlot (hs : SenderInvariant s) {p : Packet} (hp : corrupted p = false)
    (hk : k < liveCount s) (hseq : (liveSlot s k).pkt.seqnum = p.acknum) (hunacked : (liveSlot s k).acked = false) :
    sndPkt p s = ackReaction s k := by
  rw [sndPkt_of_newAck hp ((hs.newAck_iff _).mpr ⟨k, hk, hseq, hunacked⟩), ← hseq, hs.acceptAck_liveSlot hk]

/-! How far the window slides. -/

/-- The `n` oldest live slots are what an acknowledgment of the oldest slot slides out: that slot, and every acknowledged
slot that follows it without a gap (R93). -/
structure SlidOut (s : SenderState) (n : Nat) : Prop where
  pos : 1 ≤ n
  le : n ≤ liveCount s
  acked : ∀ j < n, 1 ≤ j → (liveSlot s j).acked = true
  stop : n < liveCount s → (liveSlot s n).acked = false

/-- A run of acknowledged slots after the oldest is no longer than `ackcount`. -/
theorem SenderInvariant.run_le (hs : SenderInvariant s) (hle : n ≤ liveCount s)
    (hacked : ∀ j < n, 1 ≤ j → (liveSlot s j).acked = true) : n ≤ s.ackcount.toNat + 1 := by
  cases n with
  | zero => exact Nat.zero_le _
  | succ m =>
    have hrun : Nat.count (fun j => (liveSlot s (1 + j)).acked = true) m = m :=
      Nat.count_of_forall fun j hj => hacked (1 + j) (by omega) (by omega)
    have hsplit := Nat.count_add (fun j => (liveSlot s j).acked = true) 1 m
    have hmono := Nat.count_monotone (fun j => (liveSlot s j).acked = true) hle
    rw [hs.ackcount_toNat]
    rw [Nat.add_comm 1 m] at hsplit
    omega

/-- After passes over the oldest slots, the flag at `windowfirst` is that of the next one; the oldest is marked. -/
theorem SenderInvariant.isAcked_slidePass (hs : SenderInvariant s) {j : Nat} (hj : j < WINDOWSIZE) :
    isAcked (markAcked (windowIndex s 0) s).snd_win
        (slidePass^[j] (markAcked (windowIndex s 0) s)).windowfirst.toNat
      = (decide (j = 0) || (liveSlot s j).acked) := by
  have hplace : (slidePass^[j] (markAcked (windowIndex s 0) s)).windowfirst.toNat = windowIndex s j :=
    slidePass_iterate_windowfirst j _ hs.windowfirst_lt
  rw [hplace, markAcked_snd_win, isAcked_setAcked, Nat.mod_eq_of_lt (windowIndex_lt s 0),
    Nat.mod_eq_of_lt (windowIndex_lt s j), isAcked_windowIndex]
  by_cases hzero : j = 0
  · simp [hzero]
  · simp [hzero, (windowIndex_inj (s := s) (j := 0) (by decide) hj).not.mpr (Ne.symm hzero)]

/-- Passes lower `ackcount` by one each. -/
theorem slidePass_iterate_ackcount (m : Nat) (s : SenderState) (h : m ≤ s.ackcount.toNat) :
    (slidePass^[m] s).ackcount.toNat + m = s.ackcount.toNat := by
  induction m with
  | zero => rfl
  | succ m ih =>
    have hbefore := ih (Nat.le_of_succ_le h)
    have hstep : ((slidePass^[m] s).ackcount - 1).toNat = (slidePass^[m] s).ackcount.toNat - 1 :=
      BitVec.toNat_sub_of_le (BitVec.le_def.mpr (show 1 ≤ _ by omega))
    rw [Function.iterate_succ_apply', slidePass_ackcount, hstep]
    omega

/-- Passes that meet marked flags only, and end at their bound or at a flag not marked, slide out what R93 says. At the
bound every acknowledged slot is passed, so that the next one is not acknowledged either. -/
theorem SenderInvariant.slidOut_of_flags (hs : SenderInvariant s) (h : 0 < liveCount s) (hn : n ≤ s.ackcount.toNat + 1)
    (hpassed : ∀ j < n, (decide (j = 0) || (liveSlot s j).acked) = true)
    (hstop : n < s.ackcount.toNat + 1 → (decide (n = 0) || (liveSlot s n).acked) = false) : SlidOut s n := by
  have hcount := hs.windowcount_pos h
  have hlive : s.windowcount.toNat + s.ackcount.toNat = liveCount s := rfl
  have hacked : ∀ j < n, 1 ≤ j → (liveSlot s j).acked = true := fun j hj hpos => by
    simpa [Nat.one_le_iff_ne_zero.mp hpos] using hpassed j hj
  refine ⟨?_, by omega, hacked, fun hlt => ?_⟩
  · by_contra hzero
    obtain rfl : n = 0 := by omega
    simp at hstop
  · by_contra hflag
    rw [Bool.not_eq_false] at hflag
    have hbound : s.ackcount.toNat + 1 ≤ n := by
      by_contra hbefore
      have hunmarked := hstop (by omega)
      simp [hflag] at hunmarked
    have hlonger := hs.run_le (n := n + 1) hlt fun j hj hpos => by
      rcases Nat.lt_succ_iff_lt_or_eq.mp hj with hbefore | rfl
      · exact hacked j hbefore hpos
      · exact hflag
    omega

/-- An acknowledgment of the oldest slot moves `windowfirst` past the slots it slides out and takes them off `ackcount`,
which it raised by one before (R92, R93). -/
theorem SenderInvariant.exists_slidOut (hs : SenderInvariant s) (h : 0 < liveCount s) :
    ∃ n, SlidOut s n ∧ (ackedWindow s 0).windowfirst.toNat = (s.windowfirst.toNat + n) % WINDOWSIZE
      ∧ (ackedWindow s 0).ackcount.toNat + n = s.ackcount.toNat + 1 := by
  have hack := hs.markAcked_ackcount_toNat (windowIndex s 0)
  have hack_lt := hs.ackcount_lt
  obtain ⟨n, hn, hslide, hpassed, hstop⟩ :=
    slide_spec (markAcked (windowIndex s 0) s).ackcount.toNat (markAcked (windowIndex s 0) s)
  have hslid : SlidOut s n := by
    refine hs.slidOut_of_flags h (hack ▸ hn) (fun j hj => ?_) (fun hlt => ?_)
    · rw [← hs.isAcked_slidePass (by omega)]
      exact hpassed j hj
    · rw [← hs.isAcked_slidePass (by omega)]
      exact hstop (hack ▸ hlt)
  refine ⟨n, hslid, ?_, ?_⟩
  · rw [ackedWindow_zero, hslide]
    exact slidePass_iterate_windowfirst n _ hs.windowfirst_lt
  · rw [ackedWindow_zero, hslide, slidePass_iterate_ackcount n _ hn, hack]

/-- All live slots slide out exactly where one packet was outstanding. -/
theorem SenderInvariant.slidOut_eq_liveCount_iff (hs : SenderInvariant s) (hn : SlidOut s n) :
    n = liveCount s ↔ s.windowcount.toNat = 1 := by
  have hcount := hs.windowcount_pos (hn.pos.trans hn.le)
  constructor
  · rintro rfl
    have hrun := hs.run_le le_rfl hn.acked
    rw [liveCount] at hrun
    omega
  · intro hone
    by_contra hne
    have hlt : n < liveCount s := lt_of_le_of_ne hn.le hne
    have htwo := hs.two_le_windowcount hn.pos hlt (hn.stop hlt)
    omega

end NewAcks

/-- Settles O29: the slot is not the oldest, so nothing slides, and the oldest is still outstanding. -/
theorem newAckOfALaterSlotMarksIt : Obligations.NewAckOfALaterSlotMarksIt := by
  intro p s k hs hok hpos hk hseq hunacked
  have hmore : 1 < s.sender.windowcount.toNat := hs.two_le_windowcount hpos hk hunacked
  refine ⟨_, exec_sndPkt s p, ?_⟩
  rw [hs.sndPkt_liveSlot hok hk hseq hunacked, ackReaction, if_pos hmore, if_neg hpos.ne', decide_eq_true hmore]
  obtain ⟨hlast, -, hnext, -⟩ := ackedWindow_frame s.sender k
  have hmarked := ackedWindow_of_pos (s := s.sender) hpos
  have hfirst : (ackedWindow s.sender k).windowfirst = s.sender.windowfirst := by rw [hmarked, markAcked_windowfirst]
  have hackcount : (ackedWindow s.sender k).ackcount.toNat = s.sender.ackcount.toNat + 1 := by
    rw [hmarked, hs.markAcked_ackcount_toNat]
  refine ⟨memRead_ackedWindow_same _ _, fun i hi hne => memRead_ackedWindow_other hi hne,
    hfirst, hlast, hnext, hackcount, hs.ackedWindow_windowcount_toNat hk, rfl, rfl, rfl, rfl, rfl⟩

/-- Settles O30: the slide stops at the first slot that is not acknowledged. -/
theorem newAckOfTheOldestSlotSlides : Obligations.NewAckOfTheOldestSlotSlides := by
  intro p s hs hok hlive hack
  have hseq : (liveSlot s.sender 0).pkt.seqnum = p.acknum := by rw [hack, seqFirst_eq_liveSlot]
  obtain ⟨n, hn, hfirst, hackcount⟩ := hs.exists_slidOut hlive
  obtain ⟨hlast, -, hnext, -⟩ := ackedWindow_frame s.sender 0
  refine ⟨n, _, hn.pos, hn.le, hn.acked, hn.stop, exec_sndPkt s p, ?_⟩
  rw [hs.sndPkt_liveSlot hok hlive hseq (hs.oldest_unacked hlive), ackReaction, ← hs.windowIndex_zero]
  refine ⟨memRead_ackedWindow_same _ _, fun i hi hne => memRead_ackedWindow_other hi hne, ?_, hlast, hnext, hackcount,
    hs.ackedWindow_windowcount_toNat hlive, ?_, rfl, rfl, rfl⟩
  · rw [hs.windowIndex_zero]
    exact hfirst
  · have hcount := hs.windowcount_pos hlive
    by_cases hone : s.sender.windowcount.toNat = 1
    · simp [hone]
    · have hmore : 1 < s.sender.windowcount.toNat := by omega
      simp [hone, hmore]

/-! ## The three phases (42_sender_window_fsm.md R99) -/

section Phases

variable {s : SenderState} {k : Nat}

theorem windowPhase_eq_empty_iff : windowPhase s = .empty ↔ liveCount s = 0 := by
  rw [windowPhase]
  split_ifs with hzero <;> simp [hzero]

theorem windowPhase_ne_full (h : liveCount s < WINDOWSIZE) : windowPhase s ≠ .full := by
  rw [windowPhase]
  split_ifs <;> simp

/-- The timer is stopped exactly when the window is empty. -/
abbrev StoppedIffEmpty (s : SenderState) : Prop := windowPhase s = .empty ↔ s.timer_armed = false

/-- It is so in a good sender: the oldest live packet is outstanding. -/
theorem SenderInvariant.stoppedIffEmpty (hs : SenderInvariant s) : StoppedIffEmpty s := by
  rw [StoppedIffEmpty, windowPhase_eq_empty_iff, ← Bool.not_eq_true, hs.timer_armed_iff]
  have hlive : s.windowcount.toNat + s.ackcount.toNat = liveCount s := rfl
  have hcount := hs.windowcount_pos
  omega

theorem stoppedIffEmpty_reset : StoppedIffEmpty SenderStateOf.reset := by decide

/-- An accepted submission adds a live slot. -/
theorem liveCount_sndAccept (m : Message) (h : liveCount s < WINDOWSIZE) :
    liveCount (sndAccept m s).state = liveCount s + 1 := by
  change (s.windowcount + 1).toNat + s.ackcount.toNat = s.windowcount.toNat + s.ackcount.toNat + 1
  rw [windowcount_add_one_toNat h]
  omega

/-- After an accepted submission the timer runs. -/
theorem SenderInvariant.sndAccept_timer_armed (hs : SenderInvariant s) (m : Message) :
    (sndAccept m s).state.timer_armed = true := by
  rw [sndAccept_eq]
  by_cases hnone : s.windowcount.toNat = 0
  · simp [hnone]
  · simpa [hnone] using hs.timer_armed_iff.mpr (Nat.pos_of_ne_zero hnone)

/-- R99 for a command `i` that turns sender `s` into `s'` and answers `c`. -/
abbrev PhaseMove (s s' : SenderState) (i : Instr) (c : RspCode) : Prop :=
  StoppedIffEmpty s'
    ∧ if i = .sndInit then liveCount s' = 0
      else if c = .submitAccepted then liveCount s' = liveCount s + 1 ∧ windowPhase s ≠ .full
      else if c = .ackNewSlide then liveCount s' < liveCount s
      else liveCount s' = liveCount s

/-- R99 for a command of U2 that reacts by `x`. -/
abbrev ReactionMove (s : SenderState) (i : Instr) (x : Reaction SenderState) : Prop :=
  PhaseMove s x.state i x.response.code

/-- R99 for what keeps the sender. -/
theorem SenderInvariant.phaseMove_kept (hs : SenderInvariant s) {i : Instr} {c : RspCode} (hinit : i ≠ .sndInit)
    (hsubmit : c ≠ .submitAccepted) (hslide : c ≠ .ackNewSlide) : PhaseMove s s i c := by
  rw [PhaseMove, if_neg hinit, if_neg hsubmit, if_neg hslide]
  exact ⟨hs.stoppedIffEmpty, rfl⟩

/-- R99 for `SND.SUBMIT`. -/
theorem SenderInvariant.phaseMove_sndSubmit (hs : SenderInvariant s) (m : Message) :
    ReactionMove s (.sndSubmit m) (sndSubmit m s) := by
  by_cases h : liveCount s < WINDOWSIZE
  · have hlive := liveCount_sndAccept m h
    have hcode : (sndAccept m s).response.code = .submitAccepted := rfl
    rw [sndSubmit_of_lt m h, ReactionMove, PhaseMove, StoppedIffEmpty, windowPhase_eq_empty_iff, hs.sndAccept_timer_armed, hlive,
      if_neg (by simp), if_pos hcode]
    exact ⟨by simp, rfl, windowPhase_ne_full h⟩
  · rw [sndSubmit_of_not_lt m h]
    exact hs.phaseMove_kept (by simp) (by simp [sndReject, respond]) (by simp [sndReject, respond])

/-- The acknowledgment of the oldest slot shrinks the window, that of another does not; it is empty after where one packet
was outstanding. -/
theorem SenderInvariant.liveCount_ackReaction (hs : SenderInvariant s) (hk : k < liveCount s)
    (hunacked : (liveSlot s k).acked = false) :
    (liveCount (ackReaction s k).state = 0 ↔ ¬ 1 < s.windowcount.toNat)
      ∧ if k = 0 then liveCount (ackReaction s k).state < liveCount s
        else liveCount (ackReaction s k).state = liveCount s := by
  have hcount := hs.ackedWindow_windowcount_toNat hk
  have hlive : liveCount s = s.windowcount.toNat + s.ackcount.toNat := rfl
  have hlive' : liveCount (ackReaction s k).state
      = (ackedWindow s k).windowcount.toNat + (ackedWindow s k).ackcount.toNat := rfl
  rcases Nat.eq_zero_or_pos k with rfl | hpos
  · obtain ⟨n, hn, -, hackcount⟩ := hs.exists_slidOut hk
    have hempty := hs.slidOut_eq_liveCount_iff hn
    have hslid := hn.pos
    rw [if_pos rfl]
    omega
  · have hackcount := hs.markAcked_ackcount_toNat (windowIndex s k)
    have hmore := hs.two_le_windowcount hpos hk hunacked
    rw [← ackedWindow_of_pos hpos] at hackcount
    rw [if_neg hpos.ne']
    omega

theorem ackReaction_code (s : SenderState) (k : Nat) :
    (ackReaction s k).response.code = if k = 0 then .ackNewSlide else .ackNew := rfl

/-- R99 for `SND.PKT`. -/
theorem SenderInvariant.phaseMove_sndPkt (hs : SenderInvariant s) (p : Packet) :
    ReactionMove s (.sndPkt p) (sndPkt p s) := by
  rcases sndPkt_cases p s with ⟨-, h⟩ | ⟨-, -, h⟩ | ⟨-, hlive, hrange, hunacked, h⟩
  · rw [h]
    exact hs.phaseMove_kept (by simp) (by simp [respond]) (by simp [respond])
  · rw [h]
    exact hs.phaseMove_kept (by simp) (by simp [duplicateAck, respond]) (by simp [duplicateAck, respond])
  · obtain ⟨k, hk, hseq, hflag⟩ := (hs.newAck_iff p.acknum).mp ⟨hlive, hrange, hunacked⟩
    obtain ⟨hempty, hmove⟩ := hs.liveCount_ackReaction hk hflag
    rw [h, ← hseq, hs.acceptAck_liveSlot hk, ReactionMove, PhaseMove, StoppedIffEmpty, windowPhase_eq_empty_iff, hempty]
    refine ⟨by simp [ackReaction], ?_⟩
    by_cases hzero : k = 0
    · simpa [ackReaction_code, hzero] using hmove
    · simpa [ackReaction_code, hzero] using hmove

/-- A timeout leaves a good sender as it was. -/
theorem SenderInvariant.sndTimeout_state (hs : SenderInvariant s) : (sndTimeout s).state = s := by
  cases harmed : s.timer_armed with
  | false => rw [sndTimeout_of_not_armed harmed]
  | true => rw [hs.sndTimeout_of_armed harmed]

/-- Only `SND.PKT` answers `ACK_NEW_SLIDE`. -/
theorem ackNewSlide_mem_responsesOf {i : Instr} (h : .ackNewSlide ∈ responsesOf i) : ∃ p, i = .sndPkt p := by
  cases i <;> simp [responsesOf] at h ⊢

/-- R99 for `SND.TIMEOUT`. -/
theorem SenderInvariant.phaseMove_sndTimeout (hs : SenderInvariant s) :
    ReactionMove s .sndTimeout (sndTimeout s) := by
  have hcode := sndTimeout_code_mem s
  rw [ReactionMove, hs.sndTimeout_state]
  refine hs.phaseMove_kept (by simp) (fun hsubmit => ?_) (fun hslide => ?_)
  · simp [hsubmit, responsesOf] at hcode
  · simp [hslide, responsesOf] at hcode

/-- R99 for the commands of the other units. -/
theorem SenderInvariant.phaseMove_of_not_ofUnit (hs : SenderInvariant s) {i : Instr} {c : RspCode}
    (hu : ¬ ofUnit 2#2 i) (hcode : c ∈ responsesOf i) : PhaseMove s s i c := by
  rw [ofUnit_sender_iff, not_or, not_or, not_or] at hu
  obtain ⟨hinit, hsubmit, hpkt, -⟩ := hu
  refine hs.phaseMove_kept hinit ?_ ?_
  · rintro rfl
    exact hsubmit (submitAccepted_mem_responsesOf hcode)
  · rintro rfl
    exact hpkt (ackNewSlide_mem_responsesOf hcode)

end Phases

/-- How a command of U2 moves the window is how its reaction does. -/
theorem phaseMove_concludeSender {s : State} {i : Instr} {x : Reaction SenderState} {c : RspCode} {v : Word}
    (hresponse : (concludeSender s x).response = some ⟨c, v⟩) (h : ReactionMove s.sender i x) :
    PhaseMove s.sender (concludeSender s x).sender i c := by
  rw [concludeSender_response, Option.some.injEq] at hresponse
  rwa [ReactionMove, hresponse] at h

/-- Settles O36: only an accepted submission and the acknowledgment of the oldest slot change the number of live slots,
and the packet at `windowfirst` is outstanding while there is one. -/
theorem windowPhaseMovesAsTheTableSays : Obligations.WindowPhaseMovesAsTheTableSays := by
  intro s t i c v hs h hresponse
  change PhaseMove s.sender t.sender i c
  by_cases hu : ofUnit 2#2 i
  · rcases (ofUnit_sender_iff i).mp hu with rfl | ⟨m, rfl⟩ | ⟨p, rfl⟩ | rfl
    · obtain rfl := eq_of_exec_sndInit h
      exact ⟨stoppedIffEmpty_reset, rfl⟩
    · obtain rfl := eq_of_exec_sndSubmit h
      exact phaseMove_concludeSender hresponse (hs.phaseMove_sndSubmit m)
    · obtain rfl := eq_of_exec_sndPkt h
      exact phaseMove_concludeSender hresponse (hs.phaseMove_sndPkt p)
    · obtain rfl := eq_of_exec_sndTimeout h
      exact phaseMove_concludeSender hresponse hs.phaseMove_sndTimeout
  · obtain ⟨r, hr, hcode⟩ := exec_response h
    obtain rfl : ⟨c, v⟩ = r := by simpa [hresponse] using hr
    rw [exec_sender_of_not_ofUnit h hu]
    exact hs.phaseMove_of_not_ofUnit hu hcode

end Sys2Proof.Machine
end

section
/-! The commands of U3 (43_receiver_reorder_fsm.md R105 to R118), in every state: which test selects which branch, what is
stored, the run that the delivery loop hands on (R112), and the bounds on all of it (R116). -/

namespace Sys2Proof.Machine

open Config

/-! ## The commands -/

theorem exec_rcvInit (s : State) : exec .rcvInit s = .next (concludeReceiver s (rcvInit s.receiver)) := rfl
theorem exec_rcvPkt (p : Packet) (s : State) : exec (.rcvPkt p) s = .next (concludeReceiver s (rcvPkt p s.receiver)) := rfl

/-- A reaction that keeps the receiver only answers. -/
theorem concludeReceiver_kept (s : State) (o : List Output) (r : Response) :
    concludeReceiver s ⟨s.receiver, o, r⟩ = { s with outputs := o, response := some r } := rfl

/-- Settles O37: the row of the opcode map, and the reset record. -/
theorem rcvInitRestoresTheReceiver : Obligations.RcvInitRestoresTheReceiver :=
  ⟨fun _ => decode_of_opcodeField, receiverResetRows_reset, fun _ => rfl⟩

/-! ## The acceptance range (R109) -/

/-- The distance from a sequence number to any number, without a negative intermediate value. -/
theorem seqSub_eq_mod {x y : Nat} (hy : y < SEQSPACE) : seqSub x y = (x + SEQSPACE - y) % SEQSPACE := by
  simp only [seqSub, SEQSPACE, WINDOWSIZE] at *
  omega

/-- The acceptance test of the receiver is the one by distance, in every state. -/
theorem acceptable_iff_inAcceptanceRange (r : ReceiverState) (x : Word) :
    acceptable r x = true ↔ InAcceptanceRange r x := by
  constructor
  · intro h
    obtain ⟨he, -, hx, -⟩ := seqInrange_iff.mp h
    exact ⟨he, hx, seqSub_eq_mod he ▸ (acceptable_iff he hx).mp h⟩
  · rintro ⟨he, hx, hdist⟩
    exact (acceptable_iff he hx).mpr (seqSub_eq_mod he ▸ hdist)

/-! ## Which test selects which branch (R106) -/

section Branches

variable {p : Packet} {r : ReceiverState}

/-- The acknowledgment of R108, written out. -/
@[simp] theorem ackFor_eq_writtenAck (p : Packet) (r : ReceiverState) :
    ackFor p r = writtenAck r.b_nextseqnum p.seqnum := ackPacket_eq_writtenAck _ _

/-- R107. -/
theorem rcvPkt_of_corrupted (h : corrupted p = true) : rcvPkt p r = ⟨r, [], respond .dataCorrupt⟩ := if_pos h

/-- R110. -/
theorem rcvPkt_of_out_of_range (hp : corrupted p = false) (h : ¬ InAcceptanceRange r p.seqnum) :
    rcvPkt p r = ⟨countAck r, [.evt .dataRx, .tx (writtenAck r.b_nextseqnum p.seqnum)], respond .dataOutOfRange⟩ := by
  have hout : acceptable r p.seqnum = false := by rwa [← acceptable_iff_inAcceptanceRange, Bool.not_eq_true] at h
  simp [rcvPkt, hp, hout]

/-- R111, R113. -/
theorem rcvPkt_of_unexpected (hp : corrupted p = false) (hin : InAcceptanceRange r p.seqnum)
    (hne : p.seqnum.toNat ≠ r.expectedseqnum.toNat) :
    rcvPkt p r = ⟨storePacket p (countAck r), [.evt .dataRx, .tx (writtenAck r.b_nextseqnum p.seqnum)],
      respond .dataBuffered⟩ := by
  have hin' := (acceptable_iff_inAcceptanceRange r p.seqnum).mpr hin
  have hne' : p.seqnum ≠ zextSeq r.expectedseqnum := fun h => hne (by rw [h, zextSeq_toNat])
  simp [rcvPkt, hp, hin', hne']

/-- R111, R112. -/
theorem rcvPkt_of_expected (hp : corrupted p = false) (he : r.expectedseqnum.toNat < SEQSPACE)
    (heq : p.seqnum = zextSeq r.expectedseqnum) :
    rcvPkt p r =
      ⟨(deliverRun WINDOWSIZE (storePacket p (countAck r))).1,
        [.evt .dataRx, .tx (writtenAck r.b_nextseqnum p.seqnum)]
          ++ (deliverRun WINDOWSIZE (storePacket p (countAck r))).2.map .deliver,
        respondWith .dataDelivered
          (BitVec.ofNat FIELD_W (deliverRun WINDOWSIZE (storePacket p (countAck r))).2.length)⟩ := by
  have hin : acceptable r (zextSeq r.expectedseqnum) = true := by
    refine (acceptable_iff_inAcceptanceRange _ _).mpr ⟨he, by rwa [zextSeq_toNat], ?_⟩
    rw [zextSeq_toNat, Nat.add_sub_cancel_left]
    decide
  simp [rcvPkt, hp, heq, hin]

end Branches

/-- Settles O38: the test of corruption comes first. -/
theorem corruptedDataIsDropped : Obligations.CorruptedDataIsDropped := by
  intro p s hbad
  rw [exec_rcvPkt, rcvPkt_of_corrupted hbad, concludeReceiver_kept]
  rfl

/-- The branches after the test of corruption share their first two records (R108, R115). -/
theorem rcvPkt_outputs_of_not_corrupted {p : Packet} (r : ReceiverState) (hp : corrupted p = false) :
    ∃ ms : List Message,
      (rcvPkt p r).outputs = [.evt .dataRx, .tx (writtenAck r.b_nextseqnum p.seqnum)] ++ ms.map .deliver := by
  rw [← ackFor_eq_writtenAck]
  rcases rcvPkt_cases p r with ⟨hbad, -⟩ | ⟨-, -, h⟩ | ⟨-, -, -, h⟩ | ⟨-, -, -, h⟩
  · simp [hp] at hbad
  · exact ⟨[], congrArg ReactionOf.outputs h⟩
  · exact ⟨[], congrArg ReactionOf.outputs h⟩
  · exact ⟨_, congrArg ReactionOf.outputs h⟩

/-- The counter advances for every uncorrupted packet, since each is acknowledged (R108). -/
theorem rcvPkt_b_nextseqnum_of_not_corrupted {p : Packet} (r : ReceiverState) (hp : corrupted p = false) :
    (rcvPkt p r).state.b_nextseqnum = nextSeq r.b_nextseqnum := by
  obtain ⟨ms, hms⟩ := rcvPkt_outputs_of_not_corrupted r hp
  refine (rcvPkt_b_nextseqnum p r).elim (fun ⟨hsilent, _⟩ => ?_) And.right
  simp [hms] at hsilent

/-- Settles O39: the acknowledgment comes right after the event, and only messages come after it. -/
theorem everyUncorruptedPacketIsAcknowledged : Obligations.EveryUncorruptedPacketIsAcknowledged := by
  intro p s hok
  obtain ⟨ms, hms⟩ := rcvPkt_outputs_of_not_corrupted s.receiver hok
  refine ⟨_, ms.map .deliver, exec_rcvPkt p s, (concludeReceiver_outputs _ _).trans hms, transmitted_map_deliver ms, ?_⟩
  rw [concludeReceiver_receiver, rcvPkt_b_nextseqnum_of_not_corrupted _ hok, nextSeq_toNat]

/-! ## Packets that deliver nothing -/

/-- Settles O40: the branch writes the counter only. -/
theorem outOfRangeDataIsAcknowledgedOnly : Obligations.OutOfRangeDataIsAcknowledgedOnly := by
  intro p s hok hout
  refine ⟨_, exec_rcvPkt p s, ?_⟩
  rw [rcvPkt_of_out_of_range hok hout]
  exact ⟨nextSeq_toNat _, rfl, rfl, rfl, rfl, rfl, rfl, rfl⟩

/-- A stored packet replaces the slot of its number. -/
@[simp] theorem memRead_storePacket_same (p : Packet) (r : ReceiverState) :
    memRead (storePacket p r).rcv_buf (p.seqnum.toNat % WINDOWSIZE) = p := memRead_memWrite_same _ _ _

/-- A stored packet leaves every other slot alone. -/
theorem memRead_storePacket_other (p : Packet) (r : ReceiverState) {i : Nat} (hi : i < WINDOWSIZE)
    (hne : i ≠ p.seqnum.toNat % WINDOWSIZE) : memRead (storePacket p r).rcv_buf i = memRead r.rcv_buf i := by
  refine memRead_memWrite_other _ _ _ _ ?_
  rw [Nat.mod_mod, Nat.mod_eq_of_lt hi]
  exact hne.symm

/-- R111 and R113, as what the command does. -/
theorem exec_rcvPkt_of_unexpected {p : Packet} {s : State} (hp : corrupted p = false)
    (hin : InAcceptanceRange s.receiver p.seqnum) (hne : p.seqnum.toNat ≠ s.receiver.expectedseqnum.toNat) :
    exec (.rcvPkt p) s = .next (concludeReceiver s ⟨storePacket p (countAck s.receiver),
      [.evt .dataRx, .tx (writtenAck s.receiver.b_nextseqnum p.seqnum)], respond .dataBuffered⟩) := by
  rw [exec_rcvPkt, rcvPkt_of_unexpected hp hin hne]

/-- Settles O41: the branch writes the counter and the packet's slot. -/
theorem outOfOrderDataIsBuffered : Obligations.OutOfOrderDataIsBuffered := by
  intro p s hok hin hne
  exact ⟨_, exec_rcvPkt_of_unexpected hok hin hne, memRead_storePacket_same _ _,
    fun _ => memRead_storePacket_other p _, nextSeq_toNat _, rfl, rfl, rfl, rfl, rfl, rfl⟩

/-- Settles O43: the first copy leaves `expectedseqnum`, so the second takes the same branch and writes the same slot. -/
theorem secondCopyReplacesTheFirst : Obligations.SecondCopyReplacesTheFirst := by
  intro p q s hp hq hseq hin hne
  rw [← hseq]
  exact ⟨_, _, exec_rcvPkt_of_unexpected hp hin hne,
    exec_rcvPkt_of_unexpected hq (hseq ▸ hin : InAcceptanceRange s.receiver q.seqnum) (hseq ▸ hne), rfl, rfl,
    memRead_storePacket_same q _, by rw [hseq]; rfl, rfl⟩

/-! ## The run that is delivered (R112) -/

/-- The packet at the base after `j` advances stands `j` places after the base. -/
theorem basePacket_advanceBase_iterate {r : ReceiverState} (hb : r.rcv_base.toNat < WINDOWSIZE)
    (he : r.expectedseqnum.toNat < SEQSPACE) (j : Nat) :
    basePacket (advanceBase^[j] r) = memRead r.rcv_buf (r.rcv_base.toNat + j) := by
  obtain ⟨hbase, -, hbuf, -⟩ := advanceBase_iterate j r hb he
  rw [basePacket, hbase, hbuf, memRead_mod]

/-- The slot `j` places after the base holds the number `j` places after `expectedseqnum`. -/
abbrev Waits (r : ReceiverState) (j : Nat) : Prop :=
  (memRead r.rcv_buf (r.rcv_base.toNat + j)).seqnum.toNat = (r.expectedseqnum.toNat + j) % SEQSPACE

/-- The test of the delivery loop after `j` passes. -/
theorem basePacket_advanceBase_iterate_expected_iff {r : ReceiverState} (hb : r.rcv_base.toNat < WINDOWSIZE)
    (he : r.expectedseqnum.toNat < SEQSPACE) (j : Nat) :
    (basePacket (advanceBase^[j] r)).seqnum = zextSeq (advanceBase^[j] r).expectedseqnum ↔ Waits r j := by
  obtain ⟨-, hexpected, -, -⟩ := advanceBase_iterate j r hb he
  rw [← BitVec.toNat_inj, zextSeq_toNat, hexpected, basePacket_advanceBase_iterate hb he]

/-- `r'` and the messages `ms` are what the delivery loop leaves and hands on when it delivers `n` packets from `r`. -/
structure Delivered (r r' : ReceiverState) (ms : List Message) (n : Nat) : Prop where
  messages : ms = (List.range n).map fun j => (memRead r.rcv_buf (r.rcv_base.toNat + j)).payload
  expected : r'.expectedseqnum.toNat = (r.expectedseqnum.toNat + n) % SEQSPACE
  base : r'.rcv_base.toNat = (r.rcv_base.toNat + n) % WINDOWSIZE
  buffer : r'.rcv_buf = r.rcv_buf
  counter : r'.b_nextseqnum = r.b_nextseqnum

/-- The loop hands on one message for each packet it delivers. -/
theorem Delivered.length {r r' : ReceiverState} {ms : List Message} {n : Nat} (h : Delivered r r' ms n) : ms.length = n := by
  simp [h.messages]

/-- The delivery loop delivers the packets that wait, up to the first that does not or to its bound. -/
theorem deliverRun_delivered (bound : Nat) {r : ReceiverState} (hb : r.rcv_base.toNat < WINDOWSIZE)
    (he : r.expectedseqnum.toNat < SEQSPACE) :
    ∃ n ≤ bound, Delivered r (deliverRun bound r).1 (deliverRun bound r).2 n
      ∧ (∀ j < n, Waits r j) ∧ (n < bound → ¬ Waits r n) := by
  obtain ⟨n, hn, hstate, hmessages, hrun, hstop⟩ := deliverRun_spec bound r
  simp only [ne_eq, basePacket_advanceBase_iterate_expected_iff hb he] at hrun hstop
  simp only [basePacket_advanceBase_iterate hb he] at hmessages
  obtain ⟨hbase, hexpected, hbuf, hcounter⟩ := advanceBase_iterate n r hb he
  rw [hstate]
  exact ⟨n, hn, ⟨hmessages, hexpected, hbase, hbuf, hcounter⟩, hrun, hstop⟩

/-- Settles O42: the packet is stored at the base, so it waits there, and the loop delivers the run it begins. -/
theorem expectedDataDeliversTheRun : Obligations.ExpectedDataDeliversTheRun := by
  intro p s hok he hbase hseq e base
  have heq : p.seqnum = zextSeq s.receiver.expectedseqnum := by rw [← BitVec.toNat_inj, zextSeq_toNat, hseq]
  have hslot : base = p.seqnum.toNat % WINDOWSIZE := by rw [hseq]; exact hbase
  have hlt : base < WINDOWSIZE := by rw [hslot]; exact Nat.mod_lt _ (by decide)
  have hfirst : basePacket (storePacket p (countAck s.receiver)) = p := basePacket_storePacket hbase heq
  obtain ⟨n, hn, hdelivered, hrun, hstop⟩ :=
    deliverRun_delivered WINDOWSIZE (r := storePacket p (countAck s.receiver)) hlt he
  have hpos : 1 ≤ n := hdelivered.length ▸ deliverRun_length_pos (by decide) (by rw [hfirst]; exact heq)
  refine ⟨n, _, hpos, hn, exec_rcvPkt p s, ?_⟩
  rw [rcvPkt_of_expected hok he heq]
  simp only [concludeReceiver_receiver, concludeReceiver_outputs, concludeReceiver_response, concludeReceiver_sender,
    concludeReceiver_inputs, hdelivered.buffer, hdelivered.counter, hdelivered.length]
  refine ⟨hfirst, fun i hi hne => memRead_storePacket_other p _ hi (hslot ▸ hne), hrun, hstop, hdelivered.expected,
    hdelivered.base, nextSeq_toNat _, ?_, rfl, trivial, trivial⟩
  simp [hdelivered.messages, base]

/-! ## The bounds (R116) -/

/-- The delivery loop keeps the buffer, from any state. -/
@[simp] theorem deliverRun_rcv_buf (n : Nat) (r : ReceiverState) : (deliverRun n r).1.rcv_buf = r.rcv_buf := by
  induction n generalizing r with
  | zero => rfl
  | succ n ih =>
    unfold deliverRun
    split
    · exact ih _
    · rfl

/-- `RCV.PKT` keeps the buffer, or it stores a packet whose number is in range. -/
theorem rcvPkt_rcv_buf (p : Packet) (r : ReceiverState) :
    (rcvPkt p r).state.rcv_buf = r.rcv_buf
      ∨ InAcceptanceRange r p.seqnum ∧ (rcvPkt p r).state.rcv_buf = (storePacket p r).rcv_buf := by
  rcases rcvPkt_cases p r with ⟨-, h⟩ | ⟨-, -, h⟩ | ⟨-, hin, -, h⟩ | ⟨-, hin, -, h⟩ <;> rw [h]
  · exact .inl rfl
  · exact .inl rfl
  · exact .inr ⟨(acceptable_iff_inAcceptanceRange _ _).mp hin, rfl⟩
  · exact .inr ⟨(acceptable_iff_inAcceptanceRange _ _).mp hin, deliverRun_rcv_buf _ _⟩

/-- `RCV.PKT` delivers at most `W` messages. -/
theorem rcvPkt_deliveries_length_le (p : Packet) (r : ReceiverState) :
    (deliveries (rcvPkt p r).outputs).length ≤ WINDOWSIZE := by
  rcases rcvPkt_cases p r with ⟨-, h⟩ | ⟨-, -, h⟩ | ⟨-, -, -, h⟩ | ⟨-, -, -, h⟩ <;> rw [h]
  · exact Nat.zero_le _
  · exact Nat.zero_le _
  · exact Nat.zero_le _
  · simpa using deliverRun_length_le WINDOWSIZE (storePacket p (countAck r))

/-- `RCV.PKT` sends at most one packet. -/
theorem rcvPkt_transmitted_length_le (p : Packet) (r : ReceiverState) :
    (transmitted (rcvPkt p r).outputs).length ≤ 1 := by
  rcases rcvPkt_b_nextseqnum p r with ⟨h, -⟩ | ⟨h, -⟩ <;> simp [h]

/-- Settles O44: at most one packet is stored, and only in range. -/
theorem receiverWorkIsBounded : Obligations.ReceiverWorkIsBounded := by
  intro p s t h
  obtain rfl := eq_of_exec_rcvPkt h
  rw [concludeReceiver_outputs, concludeReceiver_receiver]
  refine ⟨rcvPkt_transmitted_length_le p _, rcvPkt_deliveries_length_le p _, ?_⟩
  rcases rcvPkt_rcv_buf p s.receiver with hkept | ⟨hin, hstored⟩
  · rw [hkept]
    exact ⟨fun _ _ _ => rfl, fun _ => rfl⟩
  · rw [hstored]
    exact ⟨fun _ => memRead_storePacket_other p _, fun hout => absurd hin hout⟩

end Sys2Proof.Machine
end

section
/-! The event strobes (60_exceptions.md R122), in every state: which events the records of a command hold, in order, and
that the response code alone fixes them. -/

namespace Sys2Proof.Machine

/-! ## The events of a list of records -/

/-- The events among the records, in order. -/
def eventsIn {P : Nat} (outputs : List (OutputOf P)) : List Event :=
  outputs.filterMap fun | .evt e => some e | _ => none

section Events

variable {P : Nat} (p : PacketOf P) (m : BitVec (8 * P)) (e : Event) (o : List (OutputOf P))

@[simp] theorem eventsIn_nil : eventsIn ([] : List (OutputOf P)) = [] := rfl
@[simp] theorem eventsIn_cons_tx : eventsIn (.tx p :: o) = eventsIn o := rfl
@[simp] theorem eventsIn_cons_deliver : eventsIn (.deliver m :: o) = eventsIn o := rfl
@[simp] theorem eventsIn_cons_timerStart : eventsIn (.timerStart :: o) = eventsIn o := rfl
@[simp] theorem eventsIn_cons_timerStop : eventsIn (.timerStop :: o) = eventsIn o := rfl
@[simp] theorem eventsIn_cons_evt : eventsIn (.evt e :: o) = e :: eventsIn o := rfl

@[simp] theorem eventsIn_map_deliver (ms : List (BitVec (8 * P))) : eventsIn (ms.map OutputOf.deliver) = [] := by
  simp [eventsIn]

/-- A strobe fires once for each of its events among the records. -/
theorem strobes_eq_count_eventsIn : strobes e o = (eventsIn o).count e := by
  induction o with
  | nil => rfl
  | cons x o ih =>
    rw [strobes] at ih ⊢
    cases x <;> simp [List.count_cons, ih]

end Events

/-! ## The events of each response -/

/-- The table of R122, read by the response: what a command that answers with this code raises. -/
def eventsOf : RspCode → List Event
  | .submitWindowFull => [.windowFull]
  | .ackDuplicate => [.ackRx]
  | .ackNew | .ackNewSlide => [.ackRx, .newAck]
  | .timeoutRetransmit => [.retransmit]
  | .dataOutOfRange | .dataBuffered | .dataDelivered => [.dataRx]
  | _ => []

/-- A command of an engine raises the events of its response. -/
def RaisesItsEvents {σ : Type} (x : Reaction σ) : Prop := eventsIn x.outputs = eventsOf x.response.code

/-- R83: an initialisation may stop the timer, and raises nothing. -/
theorem raisesItsEvents_sndInit (s : SenderState) : RaisesItsEvents (sndInit s) := by
  rw [RaisesItsEvents, sndInit_outputs]
  split <;> rfl

/-- R84, R85: only a rejected submission raises an event. -/
theorem raisesItsEvents_sndSubmit (m : Message) (s : SenderState) : RaisesItsEvents (sndSubmit m s) := by
  rcases sndSubmit_cases m s with ⟨-, h⟩ | ⟨-, h⟩ <;> rw [h]
  · rw [sndAccept_eq, RaisesItsEvents]
    split <;> rfl
  · rfl

/-- R92: a new acknowledgment raises both events, however the timer is left. -/
theorem raisesItsEvents_acceptAck (a : Word) (s : SenderState) : RaisesItsEvents (acceptAck a s) := by
  have hevents : eventsIn (acceptAck a s).outputs = [.ackRx, .newAck] := by
    rcases acceptAck_outputs a s with ho | ho <;> rw [ho] <;> rfl
  rw [RaisesItsEvents, hevents]
  rcases acceptAck_response a s with hr | hr <;> rw [hr] <;> rfl

/-- R87, R91, R92: nothing for a corrupted packet, `ACK_RX` alone for a duplicate. -/
theorem raisesItsEvents_sndPkt (p : Packet) (s : SenderState) : RaisesItsEvents (sndPkt p s) := by
  rcases sndPkt_cases p s with ⟨-, h⟩ | ⟨-, -, h⟩ | ⟨-, -, -, -, h⟩ <;> rw [h]
  · rfl
  · rfl
  · exact raisesItsEvents_acceptAck p.acknum s

/-- R95, R96, R97: only a retransmission raises an event. -/
theorem raisesItsEvents_sndTimeout (s : SenderState) : RaisesItsEvents (sndTimeout s) := by
  rcases sndTimeout_cases s with ⟨-, h⟩ | ⟨-, k, -, -, -, h⟩ | ⟨-, -, h⟩ <;> rw [h] <;> rfl

/-- R107, R108: `DATA_RX` for every packet that is not corrupted, however many messages it delivers. -/
theorem raisesItsEvents_rcvPkt (p : Packet) (r : ReceiverState) : RaisesItsEvents (rcvPkt p r) := by
  rcases rcvPkt_cases p r with ⟨-, h⟩ | ⟨-, -, h⟩ | ⟨-, -, -, h⟩ | ⟨-, -, -, h⟩ <;> rw [h]
  · rfl
  · rfl
  · rfl
  · simp [RaisesItsEvents, eventsOf, respondWith]

/-! ## Every command -/

/-- The records of the state hold the events of its response. -/
abbrev EventsFollowResponse (t : State) : Prop := ∀ r, t.response = some r → eventsIn t.outputs = eventsOf r.code

theorem eventsFollowResponse_conclude (s : State) {o : List Output} {r : Response} (h : eventsIn o = eventsOf r.code) :
    EventsFollowResponse (conclude s o r) := by
  rintro _ ⟨⟩
  exact h

theorem eventsFollowResponse_concludeSender (s : State) {x : Reaction SenderState} (h : RaisesItsEvents x) :
    EventsFollowResponse (concludeSender s x) :=
  eventsFollowResponse_conclude s h

theorem eventsFollowResponse_concludeReceiver (s : State) {x : Reaction ReceiverState} (h : RaisesItsEvents x) :
    EventsFollowResponse (concludeReceiver s x) :=
  eventsFollowResponse_conclude s h

/-- A command of U2 raises the events of its response. -/
theorem eventsFollowResponse_of_senderUnit {i : Instr} {s t : State} (h : exec i s = .next t) (hu : ofUnit 2#2 i) :
    EventsFollowResponse t := by
  rcases (ofUnit_sender_iff i).mp hu with rfl | ⟨m, rfl⟩ | ⟨p, rfl⟩ | rfl
  · obtain rfl := eq_of_exec_sndInit h
    exact eventsFollowResponse_concludeSender s (raisesItsEvents_sndInit s.sender)
  · obtain rfl := eq_of_exec_sndSubmit h
    exact eventsFollowResponse_concludeSender s (raisesItsEvents_sndSubmit m s.sender)
  · obtain rfl := eq_of_exec_sndPkt h
    exact eventsFollowResponse_concludeSender s (raisesItsEvents_sndPkt p s.sender)
  · obtain rfl := eq_of_exec_sndTimeout h
    exact eventsFollowResponse_concludeSender s (raisesItsEvents_sndTimeout s.sender)

/-- A command of U3 raises the events of its response. -/
theorem eventsFollowResponse_of_receiverUnit {i : Instr} {s t : State} (h : exec i s = .next t) (hu : ofUnit 3#2 i) :
    EventsFollowResponse t := by
  rcases (ofUnit_receiver_iff i).mp hu with rfl | ⟨p, rfl⟩
  · obtain rfl := eq_of_exec_rcvInit h
    exact eventsFollowResponse_concludeReceiver s rfl
  · obtain rfl := eq_of_exec_rcvPkt h
    exact eventsFollowResponse_concludeReceiver s (raisesItsEvents_rcvPkt p s.receiver)

/-- A command of U0 or U1 gives no record, and neither of its answers has an event. -/
theorem eventsFollowResponse_of_leafUnit {i : Instr} {s t : State} (h : exec i s = .next t) (h2 : ¬ ofUnit 2#2 i)
    (h3 : ¬ ofUnit 3#2 i) : EventsFollowResponse t := by
  obtain ⟨answer, hcode, hexec⟩ := exec_of_leafUnit h2 h3
  cases (hexec s).symm.trans h
  refine eventsFollowResponse_conclude s ?_
  rcases hcode with hc | hc <;> rw [hc] <;> rfl

/-- Every command raises exactly the events of its response. -/
theorem exec_eventsFollowResponse {i : Instr} {s t : State} (h : exec i s = .next t) : EventsFollowResponse t := by
  by_cases h2 : ofUnit 2#2 i
  · exact eventsFollowResponse_of_senderUnit h h2
  by_cases h3 : ofUnit 3#2 i
  · exact eventsFollowResponse_of_receiverUnit h h3
  · exact eventsFollowResponse_of_leafUnit h h2 h3

/-- Settles O51: the response code fixes the events, and each strobe counts its own among them. -/
theorem strobesFollowTheResponse : Obligations.StrobesFollowTheResponse := by
  intro s t i c v h hresponse
  have hevents : eventsIn t.outputs = eventsOf c := exec_eventsFollowResponse h ⟨c, v⟩ hresponse
  simp only [strobes_eq_count_eventsIn, hevents]
  cases c <;> decide

end Sys2Proof.Machine
end

section
/-! What every step keeps (70_reset_and_hazards.md R150 to R157): what becomes of the live slots when a packet is inserted
(42_sender_window_fsm.md R85) and when one is acknowledged (R92, R93), and that reset and every command keep the
invariants of both engines. -/

namespace Sys2Proof.Machine

open Config

/-! ## Idle and reset -/

/-- Settles O9: with an empty stream there is no input to take. -/
theorem idleBlockKeepsItsState : Obligations.IdleBlockKeepsItsState := by
  intro s hempty
  simp [step, takeInput, hempty, idle]

/-- Settles O11: a reset, and each initialisation for its own engine, writes the reset records. -/
theorem resetIsBothInits : Obligations.ResetIsBothInits := by
  refine ⟨fun s rest hin => ?_, fun s =>
    ⟨_, _, exec_sndInit s, exec_rcvInit _, sndInit_state s.sender, rcvInit_state s.receiver⟩⟩
  simp [step, takeInput, hin, takeReset, State.reset]

/-! ## The sender's invariant, by the places of the window -/

section Places

variable {s s' : SenderState} {k n : Nat}

/-- Every live slot is acknowledged or not. -/
theorem count_acked_add_count_unacked (s : SenderState) (n : Nat) :
    Nat.count (fun k => (liveSlot s k).acked = true) n + Nat.count (fun k => (liveSlot s k).acked = false) n = n := by
  induction n with
  | zero => rfl
  | succ n ih =>
    rw [Nat.count_succ, Nat.count_succ]
    cases (liveSlot s n).acked <;> simp <;> omega

/-- R154 needs one of its two counts only, since `L` is their sum. -/
theorem countsCountFlags_of_count (h : Nat.count (fun k => (liveSlot s k).acked = true) (liveCount s) = s.ackcount.toNat) :
    CountsCountFlags s := by
  have hsum := count_acked_add_count_unacked s (liveCount s)
  have hlive : liveCount s = s.windowcount.toNat + s.ackcount.toNat := rfl
  rw [CountsCountFlags, liveIndices, List.countP_map, List.countP_map]
  simp only [Nat.count, Function.comp_def, isAcked_windowIndex, Bool.decide_eq_true,
    Bool.decide_eq_false] at *
  omega

/-- R150 to R155 from their independent parts: the bounds of `ackcount` and of the flags' counts follow from the others. -/
structure GoodWindow (s : SenderState) : Prop where
  live : liveCount s ≤ WINDOWSIZE
  first : s.windowfirst.toNat < WINDOWSIZE
  last : s.windowlast.toNat < WINDOWSIZE
  next : s.nextseqnum.toNat < SEQSPACE
  follows : LastFollowsFirst s
  consecutive : LiveConsecutive s
  oldest : 0 < liveCount s → (liveSlot s 0).acked = false
  counted : Nat.count (fun k => (liveSlot s k).acked = true) (liveCount s) = s.ackcount.toNat
  timer : TimerShadowsWindow s

theorem GoodWindow.ackcount_le (h : GoodWindow s) : s.ackcount.toNat ≤ WINDOWSIZE - 1 := by
  have hlive := h.live
  rcases Nat.eq_zero_or_pos (liveCount s) with hzero | hpos
  · have hnone : s.ackcount.toNat = 0 := by rw [← h.counted, hzero, Nat.count_zero]
    omega
  · have hsum := count_acked_add_count_unacked s (liveCount s)
    have hone := Nat.count_strict_mono (p := fun k => (liveSlot s k).acked = false) (h.oldest hpos) hpos
    rw [h.counted] at hsum
    omega

theorem GoodWindow.senderInvariant (h : GoodWindow s) : SenderInvariant s :=
  ⟨⟨h.ackcount_le, h.live, h.first, h.last, h.next⟩, h.follows, h.consecutive,
    fun hpos => (isAcked_windowfirst s).trans (h.oldest hpos), countsCountFlags_of_count h.counted, h.timer⟩

theorem SenderInvariant.last_lt (hs : SenderInvariant s) : s.windowlast.toNat < WINDOWSIZE := by
  obtain ⟨⟨-, -, -, hlast, -⟩, -, -, -, -, -⟩ := hs
  exact hlast

theorem SenderInvariant.next_lt (hs : SenderInvariant s) : s.nextseqnum.toNat < SEQSPACE := by
  obtain ⟨⟨-, -, -, -, hnext⟩, -, -, -, -, -⟩ := hs
  exact hnext

theorem SenderInvariant.follows (hs : SenderInvariant s) :
    (s.windowlast.toNat + 1) % WINDOWSIZE = (s.windowfirst.toNat + liveCount s) % WINDOWSIZE := by
  obtain ⟨-, hfollows, -, -, -, -⟩ := hs
  exact hfollows

theorem SenderInvariant.consecutive (hs : SenderInvariant s) : LiveConsecutive s := by
  obtain ⟨-, -, hlive, -, -, -⟩ := hs
  exact hlive

/-! ## Insertion (R85) -/

/-- A packet is inserted at the first place that is not live. -/
theorem SenderInvariant.nextIndex_windowlast (hs : SenderInvariant s) :
    (nextIndex s.windowlast).toNat = windowIndex s (liveCount s) := by
  rw [nextIndex_toNat, hs.follows, windowIndex]

/-- The live slots after an insertion: those before, and the new packet's after them. -/
theorem SenderInvariant.liveSlot_sndAccept (hs : SenderInvariant s) (m : Message) (hk : k < WINDOWSIZE)
    (hroom : liveCount s < WINDOWSIZE) :
    liveSlot (sndAccept m s).state k
      = if k = liveCount s then ⟨dataPacket s.nextseqnum m, false⟩ else liveSlot s k := by
  have hplace : windowIndex s (liveCount s) = windowIndex s k ↔ k = liveCount s := by
    rw [windowIndex_inj hroom hk, eq_comm]
  have hslots : liveSlot (sndAccept m s).state k
      = memRead (memWrite s.snd_win (nextIndex s.windowlast).toNat ⟨dataPacket s.nextseqnum m, false⟩) (windowIndex s k) :=
    rfl
  rw [hslots, hs.nextIndex_windowlast, memRead_memWrite, Nat.mod_eq_of_lt (windowIndex_lt s _),
    Nat.mod_eq_of_lt (windowIndex_lt s _)]
  exact if_congr hplace rfl rfl

/-- A place that was live before an insertion keeps its record. -/
theorem SenderInvariant.liveSlot_sndAccept_old (hs : SenderInvariant s) (m : Message) (hroom : liveCount s < WINDOWSIZE)
    (hk : k < liveCount s) : liveSlot (sndAccept m s).state k = liveSlot s k := by
  rw [hs.liveSlot_sndAccept m (hk.trans hroom) hroom, if_neg hk.ne]

/-- The place after them holds the new packet, not acknowledged. -/
theorem SenderInvariant.liveSlot_sndAccept_new (hs : SenderInvariant s) (m : Message) (hroom : liveCount s < WINDOWSIZE) :
    liveSlot (sndAccept m s).state (liveCount s) = ⟨dataPacket s.nextseqnum m, false⟩ := by
  rw [hs.liveSlot_sndAccept m hroom hroom, if_pos rfl]

/-- A data packet carries its number, and is not corrupted (40_packet_checksum_unit.md R72). -/
theorem dataPacket_fields (n : BitVec SEQ_W) (m : Message) :
    (dataPacket n m).seqnum.toNat = n.toNat ∧ (dataPacket n m).acknum = NOTINUSE ∧ (dataPacket n m).payload = m
      ∧ corrupted (dataPacket n m) = false :=
  ⟨zextSeq_toNat n, rfl, rfl, corrupted_buildPacket _ _ _ _⟩

/-- `seqfirst` after an insertion, and where the new number stands after it. -/
theorem SenderInvariant.seqFirst_sndAccept (hs : SenderInvariant s) (m : Message) (hroom : liveCount s < WINDOWSIZE) :
    (0 < liveCount s → seqFirst (sndAccept m s).state = seqFirst s)
      ∧ s.nextseqnum.toNat = ((seqFirst (sndAccept m s).state).toNat + liveCount s) % SEQSPACE := by
  have hold : 0 < liveCount s → seqFirst (sndAccept m s).state = seqFirst s := fun hpos => by
    rw [seqFirst_eq_liveSlot, seqFirst_eq_liveSlot, hs.liveSlot_sndAccept_old m hroom hpos]
  refine ⟨hold, ?_⟩
  rcases Nat.eq_zero_or_pos (liveCount s) with hzero | hpos
  · have hnew := hs.liveSlot_sndAccept_new m hroom
    rw [hzero] at hnew
    obtain ⟨hseq, -, -, -⟩ := dataPacket_fields s.nextseqnum m
    rw [seqFirst_eq_liveSlot, hnew, hseq, hzero, Nat.add_zero, Nat.mod_eq_of_lt hs.next_lt]
  · obtain ⟨-, hnext⟩ := hs.consecutive
    rw [hold hpos, hnext hpos]

/-- R152 after an insertion. -/
theorem SenderInvariant.consecutive_sndAccept (hs : SenderInvariant s) (m : Message) (hroom : liveCount s < WINDOWSIZE) :
    LiveConsecutive (sndAccept m s).state := by
  obtain ⟨hfirst, hnumber⟩ := hs.seqFirst_sndAccept m hroom
  obtain ⟨hold, -⟩ := hs.consecutive
  rw [LiveConsecutive, liveCount_sndAccept m hroom]
  refine ⟨fun k hk => ?_, fun _ => ?_⟩
  · rcases Nat.lt_succ_iff_lt_or_eq.mp hk with hlt | rfl
    · rw [hs.liveSlot_sndAccept_old m hroom hlt, hfirst (Nat.zero_lt_of_lt hlt)]
      exact hold k hlt
    · obtain ⟨hseq, hack, -, hok⟩ := dataPacket_fields s.nextseqnum m
      rw [hs.liveSlot_sndAccept_new m hroom]
      exact ⟨hseq.trans hnumber, hack, hok⟩
  · have hnext : (sndAccept m s).state.nextseqnum.toNat = (s.nextseqnum.toNat + 1) % SEQSPACE := nextSeq_toNat _
    rw [hnext, hnumber, Nat.mod_add_mod, Nat.add_assoc]

/-- The flags counted after an insertion are those counted before. -/
theorem SenderInvariant.count_acked_sndAccept (hs : SenderInvariant s) (m : Message) (hroom : liveCount s < WINDOWSIZE) :
    Nat.count (fun k => (liveSlot (sndAccept m s).state k).acked = true) (liveCount s + 1) = s.ackcount.toNat := by
  have hold : Nat.count (fun k => (liveSlot (sndAccept m s).state k).acked = true) (liveCount s)
      = Nat.count (fun k => (liveSlot s k).acked = true) (liveCount s) := by
    rw [Nat.count_eq_card_filter_range, Nat.count_eq_card_filter_range]
    refine congrArg Finset.card (Finset.filter_congr fun k hk => ?_)
    rw [hs.liveSlot_sndAccept_old m hroom (Finset.mem_range.mp hk)]
  rw [Nat.count_succ, hold, hs.liveSlot_sndAccept_new m hroom, ← hs.ackcount_toNat]
  simp

/-- An accepted submission keeps R150 to R155. -/
theorem senderInvariant_sndAccept (hs : SenderInvariant s) (m : Message) (hroom : liveCount s < WINDOWSIZE) :
    SenderInvariant (sndAccept m s).state := by
  have hlive := liveCount_sndAccept m hroom
  have hlast : (sndAccept m s).state.windowlast.toNat = windowIndex s (liveCount s) := hs.nextIndex_windowlast
  have hwindow : (sndAccept m s).state.windowcount.toNat = s.windowcount.toNat + 1 :=
    windowcount_add_one_toNat hroom
  refine GoodWindow.senderInvariant
    { live := by rw [hlive]; exact hroom
      first := hs.windowfirst_lt
      last := by rw [hlast]; exact windowIndex_lt s _
      next := (nextSeq_toNat s.nextseqnum).trans_lt (Nat.mod_lt _ (by decide))
      follows := ?_
      consecutive := hs.consecutive_sndAccept m hroom
      oldest := fun _ => ?_
      counted := by rw [hlive]; exact hs.count_acked_sndAccept m hroom
      timer := iff_of_true (hs.sndAccept_timer_armed m) (by rw [hwindow]; exact Nat.le_add_left 1 _) }
  · rw [LastFollowsFirst, hlive, hlast, windowIndex, Nat.mod_add_mod]
    rfl
  · rcases Nat.eq_zero_or_pos (liveCount s) with hzero | hpos
    · have hnew := hs.liveSlot_sndAccept_new m hroom
      rw [hzero] at hnew
      rw [hnew]
    · rw [hs.liveSlot_sndAccept_old m hroom hpos]
      exact hs.oldest_unacked hpos

/-! ## Acknowledgment (R92, R93) -/

/-- What a new acknowledgment of live slot `k` makes of the window of `s`, when `n` slots slide out: `s'` counts one packet
outstanding less, its live slots are those `n` places on with slot `k` marked, every slot that slid out was acknowledged,
and the oldest that is left is not. -/
structure AckOutcome (s s' : SenderState) (k n : Nat) : Prop where
  first : s'.windowfirst.toNat = windowIndex s n
  last : s'.windowlast = s.windowlast
  next : s'.nextseqnum = s.nextseqnum
  outstanding : s'.windowcount.toNat + 1 = s.windowcount.toNat
  ackcount : s'.ackcount.toNat + n = s.ackcount.toNat + 1
  slots : ∀ j < liveCount s', liveSlot s' j = ⟨(liveSlot s (n + j)).pkt, (liveSlot s (n + j)).acked || decide (n + j = k)⟩
  passed : ∀ j < n, j = k ∨ (liveSlot s j).acked = true
  oldest : 0 < liveCount s' → (liveSlot s' 0).acked = false
  timer : s'.timer_armed = decide (1 < s.windowcount.toNat)

/-- `n` slots slid out. -/
theorem AckOutcome.liveCount_add (h : AckOutcome s s' k n) : liveCount s' + n = liveCount s := by
  have houtstanding := h.outstanding
  have hack := h.ackcount
  simp only [liveCount]
  omega

/-- The slots of a window whose front has moved by `n`, with live slot `k` marked. -/
theorem liveSlot_of_setAcked (hfirst : s'.windowfirst.toNat = windowIndex s n)
    (hwin : s'.snd_win = setAcked s.snd_win (windowIndex s k)) (hk : k < WINDOWSIZE) {j : Nat} (hj : n + j < WINDOWSIZE) :
    liveSlot s' j = ⟨(liveSlot s (n + j)).pkt, (liveSlot s (n + j)).acked || decide (n + j = k)⟩ := by
  have hplace : windowIndex s' j = windowIndex s (n + j) := by
    rw [windowIndex, hfirst, windowIndex, windowIndex, Nat.mod_add_mod, Nat.add_assoc]
  rw [liveSlot, hplace, hwin, memRead_setAcked, Nat.mod_eq_of_lt (windowIndex_lt s _),
    Nat.mod_eq_of_lt (windowIndex_lt s _)]
  by_cases heq : n + j = k
  · rw [if_pos (by rw [heq])]
    simp [heq]
  · have hne : ¬ windowIndex s k = windowIndex s (n + j) := fun h => heq ((windowIndex_inj hk hj).mp h).symm
    rw [if_neg hne]
    simp [heq]

/-- An acknowledgment of the oldest slot slides it out with the acknowledged slots behind it; one of a later slot slides
nothing. -/
theorem SenderInvariant.exists_ackOutcome (hs : SenderInvariant s) (hk : k < liveCount s)
    (hunacked : (liveSlot s k).acked = false) : ∃ n, AckOutcome s (ackReaction s k).state k n := by
  obtain ⟨hlast, -, hnext, hwin⟩ := ackedWindow_frame s k
  have houtstanding := hs.ackedWindow_windowcount_toNat hk
  have hfits := hs.liveCount_le
  have hlive : liveCount s = s.windowcount.toNat + s.ackcount.toNat := rfl
  have hlive' : liveCount (ackReaction s k).state
      = (ackedWindow s k).windowcount.toNat + (ackedWindow s k).ackcount.toNat := rfl
  rcases Nat.eq_zero_or_pos k with rfl | hpos
  · obtain ⟨n, hslid, hfirst, hackcount⟩ := hs.exists_slidOut hk
    have hslots : ∀ j < liveCount (ackReaction s 0).state, liveSlot (ackReaction s 0).state j
        = ⟨(liveSlot s (n + j)).pkt, (liveSlot s (n + j)).acked || decide (n + j = 0)⟩ := fun j hj =>
      liveSlot_of_setAcked hfirst hwin (by decide) (by omega)
    refine ⟨n, hfirst, hlast, hnext, houtstanding, hackcount, hslots, fun j hj => ?_, fun hleft => ?_, rfl⟩
    · exact (Nat.eq_zero_or_pos j).imp id fun h => hslid.acked j hj h
    · have hstop := hslid.stop (by omega)
      have hpos := hslid.pos
      rw [hslots 0 hleft]
      simpa [hstop] using Nat.ne_of_gt hpos
  · have hmarked := ackedWindow_of_pos (s := s) hpos
    have hfirst : (ackedWindow s k).windowfirst.toNat = windowIndex s 0 := by
      rw [hmarked, markAcked_windowfirst, hs.windowIndex_zero]
    have hackcount : (ackedWindow s k).ackcount.toNat = s.ackcount.toNat + 1 := by
      rw [hmarked, hs.markAcked_ackcount_toNat]
    have hslots : ∀ j < liveCount (ackReaction s k).state, liveSlot (ackReaction s k).state j
        = ⟨(liveSlot s (0 + j)).pkt, (liveSlot s (0 + j)).acked || decide (0 + j = k)⟩ := fun j hj =>
      liveSlot_of_setAcked hfirst hwin (by omega) (by omega)
    refine ⟨0, hfirst, hlast, hnext, houtstanding, hackcount, hslots, fun j hj => absurd hj (Nat.not_lt_zero j),
      fun hleft => ?_, rfl⟩
    rw [hslots 0 hleft]
    simpa [hs.oldest_unacked (hpos.trans hk)] using Nat.ne_of_lt hpos

/-- One more place is counted where one more place satisfies the predicate. -/
theorem count_or_eq {p : Nat → Prop} [DecidablePred p] {k L : Nat} (hk : k < L) (hp : ¬ p k) :
    Nat.count (fun j => p j ∨ j = k) L = Nat.count p L + 1 := by
  rw [Nat.count_eq_card_filter_range, Nat.count_eq_card_filter_range, Finset.filter_or, Finset.filter_eq',
    if_pos (Finset.mem_range.mpr hk), Finset.card_union_of_disjoint, Finset.card_singleton]
  simp [hp]

/-- The flags counted after an acknowledgment: one more is set, and `n` of them slid out. -/
theorem AckOutcome.count_acked (h : AckOutcome s s' k n) (hs : SenderInvariant s) (hk : k < liveCount s)
    (hunacked : (liveSlot s k).acked = false) :
    Nat.count (fun j => (liveSlot s' j).acked = true) (liveCount s') = s'.ackcount.toNat := by
  have hlive : liveCount s = n + liveCount s' := by rw [← h.liveCount_add, Nat.add_comm]
  have hmarked := count_or_eq (p := fun j => (liveSlot s j).acked = true) hk (by simp [hunacked])
  have hslid : Nat.count (fun j => (liveSlot s j).acked = true ∨ j = k) n = n :=
    Nat.count_of_forall fun j hj => (h.passed j hj).symm
  have hleft : Nat.count (fun j => (liveSlot s' j).acked = true) (liveCount s')
      = Nat.count (fun j => (liveSlot s (n + j)).acked = true ∨ n + j = k) (liveCount s') := by
    rw [Nat.count_eq_card_filter_range, Nat.count_eq_card_filter_range]
    refine congrArg Finset.card (Finset.filter_congr fun j hj => ?_)
    rw [h.slots j (Finset.mem_range.mp hj)]
    simp
  have hack := h.ackcount
  rw [← hs.ackcount_toNat, hlive, Nat.count_add, hslid, ← hleft] at hmarked
  omega

/-- R152 after an acknowledgment. -/
theorem AckOutcome.consecutive (h : AckOutcome s s' k n) (hs : SenderInvariant s) : LiveConsecutive s' := by
  have hlive := h.liveCount_add
  obtain ⟨hold, hnext⟩ := hs.consecutive
  have hfirst : 0 < liveCount s' → (seqFirst s').toNat = ((seqFirst s).toNat + n) % SEQSPACE := fun hpos => by
    rw [seqFirst_eq_liveSlot, h.slots 0 hpos]
    exact hs.seqnum_toNat (by omega)
  refine ⟨fun j hj => ?_, fun hpos => ?_⟩
  · obtain ⟨hseq, hack, hok⟩ := hold (n + j) (by omega)
    rw [h.slots j hj, hfirst (Nat.zero_lt_of_lt hj), Nat.mod_add_mod, Nat.add_assoc]
    exact ⟨hseq, hack, hok⟩
  · rw [h.next, hnext (by omega), hfirst hpos, Nat.mod_add_mod, ← hlive, Nat.add_assoc, Nat.add_comm n]

/-- A new acknowledgment keeps R150 to R155. -/
theorem AckOutcome.senderInvariant (h : AckOutcome s s' k n) (hs : SenderInvariant s) (hk : k < liveCount s)
    (hunacked : (liveSlot s k).acked = false) : SenderInvariant s' := by
  have hlive := h.liveCount_add
  have hfits := hs.liveCount_le
  have houtstanding := h.outstanding
  refine GoodWindow.senderInvariant
    { live := by omega
      first := by rw [h.first]; exact windowIndex_lt s n
      last := by rw [h.last]; exact hs.last_lt
      next := by rw [h.next]; exact hs.next_lt
      follows := ?_
      consecutive := h.consecutive hs
      oldest := h.oldest
      counted := h.count_acked hs hk hunacked
      timer := ?_ }
  · rw [LastFollowsFirst, h.last, hs.follows, h.first, windowIndex, Nat.mod_add_mod, ← hlive, Nat.add_assoc, Nat.add_comm n]
  · rw [TimerShadowsWindow, h.timer, decide_eq_true_eq]
    omega

/-! ## The commands of U2 -/

/-- A reaction leaves a sender that meets R150 to R155. -/
abbrev LeavesGoodSender (x : Reaction SenderState) : Prop := SenderInvariant x.state

theorem senderInvariant_concludeSender {s : State} {x : Reaction SenderState} (h : LeavesGoodSender x) :
    SenderInvariant (concludeSender s x).sender := h

/-- `SND.SUBMIT` keeps R150 to R155. -/
theorem leavesGoodSender_sndSubmit (hs : SenderInvariant s) (m : Message) : LeavesGoodSender (sndSubmit m s) := by
  rcases sndSubmit_cases m s with ⟨hroom, h⟩ | ⟨-, h⟩ <;> rw [h]
  · exact senderInvariant_sndAccept hs m hroom
  · exact hs

/-- `SND.PKT` in a good sender: nothing changes, or a live slot that carries the number is newly acknowledged. -/
theorem SenderInvariant.sndPkt_outcomes (hs : SenderInvariant s) (p : Packet) :
    (corrupted p = true ∧ sndPkt p s = ⟨s, [], respond .ackCorrupt⟩)
      ∨ (corrupted p = false ∧ ¬ NewAck s p.acknum ∧ sndPkt p s = duplicateAck s)
      ∨ (corrupted p = false ∧ ∃ k < liveCount s, (liveSlot s k).pkt.seqnum = p.acknum
          ∧ (liveSlot s k).acked = false ∧ sndPkt p s = ackReaction s k) := by
  cases hp : corrupted p with
  | true => exact .inl ⟨rfl, sndPkt_of_corrupted hp⟩
  | false =>
    by_cases hnew : NewAck s p.acknum
    · obtain ⟨k, hk, hseq, hunacked⟩ := (hs.newAck_iff _).mp hnew
      exact .inr (.inr ⟨rfl, k, hk, hseq, hunacked, hs.sndPkt_liveSlot hp hk hseq hunacked⟩)
    · exact .inr (.inl ⟨rfl, hnew, sndPkt_of_not_newAck hp hnew⟩)

/-- `SND.PKT` keeps R150 to R155. -/
theorem leavesGoodSender_sndPkt (hs : SenderInvariant s) (p : Packet) : LeavesGoodSender (sndPkt p s) := by
  rcases hs.sndPkt_outcomes p with ⟨-, h⟩ | ⟨-, -, h⟩ | ⟨-, k, hk, -, hunacked, h⟩ <;> rw [h]
  · exact hs
  · exact hs
  · obtain ⟨n, hn⟩ := hs.exists_ackOutcome hk hunacked
    exact hn.senderInvariant hs hk hunacked

/-- `SND.TIMEOUT` keeps R150 to R155. -/
theorem leavesGoodSender_sndTimeout (hs : SenderInvariant s) : LeavesGoodSender (sndTimeout s) := by
  rw [LeavesGoodSender, hs.sndTimeout_state]
  exact hs

/-- Every command keeps R150 to R155. -/
theorem senderInvariant_exec {s t : State} (hs : SenderInvariant s.sender) {i : Instr} (h : exec i s = .next t) :
    SenderInvariant t.sender := by
  by_cases hu : ofUnit 2#2 i
  · rcases (ofUnit_sender_iff i).mp hu with rfl | ⟨m, rfl⟩ | ⟨p, rfl⟩ | rfl
    · obtain rfl := eq_of_exec_sndInit h
      exact senderInvariant_reset
    · obtain rfl := eq_of_exec_sndSubmit h
      exact senderInvariant_concludeSender (leavesGoodSender_sndSubmit hs m)
    · obtain rfl := eq_of_exec_sndPkt h
      exact senderInvariant_concludeSender (leavesGoodSender_sndPkt hs p)
    · obtain rfl := eq_of_exec_sndTimeout h
      exact senderInvariant_concludeSender (leavesGoodSender_sndTimeout hs)
  · rw [exec_sender_of_not_ofUnit h hu]
    exact hs

end Places

/-! ## The commands of U3 -/

section Receiver

variable {r : ReceiverState}

/-- The acknowledgment counter stays a sequence number. -/
theorem receiverInvariant_countAck (hr : ReceiverInvariant r) : ReceiverInvariant (countAck r) := by
  obtain ⟨hexpected, -, hbase, hfollows, hbuf⟩ := hr
  exact ⟨hexpected, (nextSeq_toNat r.b_nextseqnum).trans_lt (Nat.mod_lt _ (by decide)), hbase, hfollows, hbuf⟩

/-- R157 after an uncorrupted packet numbered in `[0, S)` is stored. -/
theorem receiverInvariant_storePacket (hr : ReceiverInvariant r) {p : Packet} (hp : corrupted p = false)
    (hseq : p.seqnum.toNat < SEQSPACE) : ReceiverInvariant (storePacket p r) := by
  obtain ⟨hexpected, hcounter, hbase, hfollows, hbuf⟩ := hr
  refine ⟨hexpected, hcounter, hbase, hfollows, fun i hi => ?_⟩
  by_cases hslot : i = p.seqnum.toNat % WINDOWSIZE
  · subst hslot
    rw [BufferSlotOk, memRead_storePacket_same]
    exact .inr ⟨hp, hseq, rfl⟩
  · rw [BufferSlotOk, memRead_storePacket_other p r hi hslot]
    exact hbuf i hi

/-- R157 after the base advances: `W` divides `S`, so base and `expectedseqnum` stay in step. -/
theorem receiverInvariant_advanceBase (hr : ReceiverInvariant r) : ReceiverInvariant (advanceBase r) := by
  obtain ⟨-, hcounter, -, hfollows, hbuf⟩ := hr
  have hexpected : (advanceBase r).expectedseqnum.toNat = (r.expectedseqnum.toNat + 1) % SEQSPACE := nextSeq_toNat _
  have hbase : (advanceBase r).rcv_base.toNat = (r.rcv_base.toNat + 1) % WINDOWSIZE := nextIndex_toNat _
  refine ⟨?_, hcounter, ?_, ?_, hbuf⟩
  · rw [hexpected]
    exact Nat.mod_lt _ (by decide)
  · rw [hbase]
    exact Nat.mod_lt _ (by decide)
  · rw [hbase, hexpected, hfollows, Nat.mod_add_mod, Nat.mod_mod_of_dvd _ (by decide)]

/-- The delivery loop keeps R157. -/
theorem receiverInvariant_deliverRun (hr : ReceiverInvariant r) (n : Nat) : ReceiverInvariant (deliverRun n r).1 := by
  obtain ⟨m, -, hstate, -, -, -⟩ := deliverRun_spec n r
  rw [hstate]
  clear hstate
  induction m with
  | zero => exact hr
  | succ m ih =>
    rw [Function.iterate_succ_apply']
    exact receiverInvariant_advanceBase ih

/-- A reaction leaves a receiver that meets R157. -/
abbrev LeavesGoodReceiver (x : Reaction ReceiverState) : Prop := ReceiverInvariant x.state

theorem receiverInvariant_concludeReceiver {s : State} {x : Reaction ReceiverState} (h : LeavesGoodReceiver x) :
    ReceiverInvariant (concludeReceiver s x).receiver := h

/-- `RCV.PKT` keeps R157. -/
theorem leavesGoodReceiver_rcvPkt (hr : ReceiverInvariant r) (p : Packet) : LeavesGoodReceiver (rcvPkt p r) := by
  rcases rcvPkt_cases p r with ⟨-, h⟩ | ⟨-, -, h⟩ | ⟨hp, hin, -, h⟩ | ⟨hp, hin, -, h⟩ <;> rw [h]
  · exact hr
  · exact receiverInvariant_countAck hr
  · obtain ⟨-, hseq, -⟩ := (acceptable_iff_inAcceptanceRange _ _).mp hin
    exact receiverInvariant_storePacket (receiverInvariant_countAck hr) hp hseq
  · obtain ⟨-, hseq, -⟩ := (acceptable_iff_inAcceptanceRange _ _).mp hin
    exact receiverInvariant_deliverRun (receiverInvariant_storePacket (receiverInvariant_countAck hr) hp hseq) _

/-- Every command keeps R157. -/
theorem receiverInvariant_exec {s t : State} (hr : ReceiverInvariant s.receiver) {i : Instr} (h : exec i s = .next t) :
    ReceiverInvariant t.receiver := by
  by_cases hu : ofUnit 3#2 i
  · rcases (ofUnit_receiver_iff i).mp hu with rfl | ⟨p, rfl⟩
    · obtain rfl := eq_of_exec_rcvInit h
      exact receiverInvariant_reset
    · obtain rfl := eq_of_exec_rcvPkt h
      exact receiverInvariant_concludeReceiver (leavesGoodReceiver_rcvPkt hr p)
  · rw [exec_receiver_of_not_ofUnit h hu]
    exact hr

end Receiver

/-! ## Every step -/

/-- Every command keeps the invariants of both engines. -/
theorem good_exec {s t : State} (hs : Good s) {i : Instr} (h : exec i s = .next t) : Good t :=
  ⟨senderInvariant_exec hs.left h, receiverInvariant_exec hs.right h⟩

/-- Settles O47: idle steps and illegal words keep both engines, a reset writes the reset records, and every command keeps
each engine's invariant. -/
theorem everyStepKeepsTheInvariants : Obligations.EveryStepKeepsTheInvariants := by
  intro s t hs h
  rcases step_cases s with ⟨-, hstep⟩ | ⟨rest, -, hstep⟩ | ⟨w, rest, i, -, -, hstep⟩ | ⟨w, rest, e, -, -, hstep⟩
  · cases hstep.symm.trans h
    exact hs
  · cases hstep.symm.trans h
    exact resetMeetsTheInvariants
  · exact good_exec (s := { s with inputs := rest }) hs (hstep.symm.trans h)
  · cases hstep.symm.trans h
    exact hs

end Sys2Proof.Machine
end

section
/-! The timer port (70_reset_and_hazards.md R155): the records of every command keep the timer service in step with the
shadow bit, and so does every action on a link (60_exceptions.md R131). -/

namespace Sys2Proof.Machine

open Config

/-! ## Reading the records of a command -/

section Port

variable (armed : Bool) (o : List Output)

@[simp] theorem timerPortAfter_nil : timerPortAfter armed [] = some armed := rfl
@[simp] theorem timerPortAfter_cons_tx (p : Packet) : timerPortAfter armed (.tx p :: o) = timerPortAfter armed o := rfl
@[simp] theorem timerPortAfter_cons_deliver (m : Message) :
    timerPortAfter armed (.deliver m :: o) = timerPortAfter armed o := rfl
@[simp] theorem timerPortAfter_cons_evt (e : Event) : timerPortAfter armed (.evt e :: o) = timerPortAfter armed o := rfl
@[simp] theorem timerPortAfter_cons_timerStart :
    timerPortAfter armed (.timerStart :: o) = if armed then none else timerPortAfter true o := rfl
@[simp] theorem timerPortAfter_cons_timerStop :
    timerPortAfter armed (.timerStop :: o) = if armed then timerPortAfter false o else none := rfl

@[simp] theorem timerPortAfter_map_deliver (ms : List Message) :
    timerPortAfter armed (ms.map OutputOf.deliver) = some armed := by
  induction ms with
  | nil => rfl
  | cons m ms ih => exact ih

end Port

/-! ## The commands of U2 -/

section Sender

variable {s : SenderState}

/-- A reaction drives the timer port as R155 says, from a timer of this status. -/
abbrev DrivesTimer (armed : Bool) (x : Reaction SenderState) : Prop :=
  timerPortAfter armed x.outputs = some x.state.timer_armed

theorem drivesTimer_concludeSender {s : State} {armed : Bool} {x : Reaction SenderState} (h : DrivesTimer armed x) :
    timerPortAfter armed (concludeSender s x).outputs = some (concludeSender s x).sender.timer_armed := h

/-- R83: an initialisation stops a timer that is armed. -/
theorem drivesTimer_sndInit (s : SenderState) : DrivesTimer s.timer_armed (sndInit s) := by
  cases harmed : s.timer_armed <;> simp [DrivesTimer, sndInit_outputs, harmed, SenderStateOf.reset]

/-- R85: the first packet outstanding starts the timer, which is stopped while none is. -/
theorem SenderInvariant.drivesTimer_sndSubmit (hs : SenderInvariant s) (m : Message) :
    DrivesTimer s.timer_armed (sndSubmit m s) := by
  rcases sndSubmit_cases m s with ⟨-, h⟩ | ⟨-, h⟩ <;> rw [h]
  · rw [sndAccept_eq, DrivesTimer]
    by_cases hnone : s.windowcount.toNat = 0
    · have hstopped : s.timer_armed = false := by
        rw [← Bool.not_eq_true, hs.timer_armed_iff, hnone]
        exact Nat.not_succ_le_zero 0
      simp [hnone, hstopped]
    · simp [hnone]
  · simp [DrivesTimer, sndReject]

/-- R94: a new acknowledgment finds the timer armed, stops it, and starts it again while a packet is outstanding. -/
theorem SenderInvariant.drivesTimer_sndPkt (hs : SenderInvariant s) (p : Packet) :
    DrivesTimer s.timer_armed (sndPkt p s) := by
  rcases hs.sndPkt_outcomes p with ⟨-, h⟩ | ⟨-, -, h⟩ | ⟨-, k, hk, -, -, h⟩ <;> rw [h]
  · rfl
  · rfl
  · have harmed : s.timer_armed = true := hs.timer_armed_iff.mpr (hs.windowcount_pos (Nat.zero_lt_of_lt hk))
    rw [DrivesTimer, ackReaction]
    by_cases hmore : 1 < s.windowcount.toNat <;> simp [harmed, hmore]

/-- R95, R96: an accepted timeout starts the timer again, which has stopped by expiring. -/
theorem SenderInvariant.drivesTimer_sndTimeout (hs : SenderInvariant s) : DrivesTimer false (sndTimeout s) := by
  cases harmed : s.timer_armed with
  | false => simp [DrivesTimer, sndTimeout_of_not_armed harmed, harmed]
  | true => simp [DrivesTimer, hs.sndTimeout_of_armed harmed, harmed]

end Sender

/-! ## Every command -/

/-- A command of another unit gives no record to the timer port. -/
theorem timerPortAfter_of_not_ofUnit {i : Instr} {s t : State} (h : exec i s = .next t) (hu : ¬ ofUnit 2#2 i)
    (armed : Bool) : timerPortAfter armed t.outputs = some armed := by
  by_cases h3 : ofUnit 3#2 i
  · rcases (ofUnit_receiver_iff i).mp h3 with rfl | ⟨p, rfl⟩
    · obtain rfl := eq_of_exec_rcvInit h
      rfl
    · obtain rfl := eq_of_exec_rcvPkt h
      rw [concludeReceiver_outputs]
      rcases rcvPkt_outputs p s.receiver with ho | ⟨q, ms, ho⟩ <;> rw [ho] <;> simp
  · obtain ⟨r, -, hr⟩ := exec_of_leafUnit hu h3
    cases (hr s).symm.trans h
    rfl

/-- Settles O54: each command of U2 by its records, and the others have none on this port. -/
theorem timerPortAlternates : Obligations.TimerPortAlternates := by
  intro s t i hs h
  by_cases hu : ofUnit 2#2 i
  · rcases (ofUnit_sender_iff i).mp hu with rfl | ⟨m, rfl⟩ | ⟨p, rfl⟩ | rfl
    · obtain rfl := eq_of_exec_sndInit h
      rw [if_neg nofun]
      exact drivesTimer_concludeSender (drivesTimer_sndInit s.sender)
    · obtain rfl := eq_of_exec_sndSubmit h
      rw [if_neg nofun]
      exact drivesTimer_concludeSender (hs.drivesTimer_sndSubmit m)
    · obtain rfl := eq_of_exec_sndPkt h
      rw [if_neg nofun]
      exact drivesTimer_concludeSender (hs.drivesTimer_sndPkt p)
    · obtain rfl := eq_of_exec_sndTimeout h
      rw [if_pos rfl]
      exact drivesTimer_concludeSender hs.drivesTimer_sndTimeout
  · have htimeout : i ≠ .sndTimeout := fun heq => hu ((ofUnit_sender_iff i).mpr (.inr (.inr (.inr heq))))
    rw [if_neg htimeout, timerPortAfter_of_not_ofUnit h hu, exec_sender_of_not_ofUnit h hu]

/-! ## The actions on a link -/

/-- A command leads to a next state, and that is the block after it. -/
theorem exec_eq_afterCommand (i : Instr) (s : State) : exec i s = .next (afterCommand i s) := by
  rw [afterCommand, exec_eq_react]

section Runs

variable (l : Link) (i : Instr)

@[simp] theorem senderRuns_blockA : (senderRuns l i).blockA = afterCommand i l.blockA := rfl
@[simp] theorem senderRuns_blockB : (senderRuns l i).blockB = l.blockB := rfl
@[simp] theorem senderRuns_dataChannel :
    (senderRuns l i).dataChannel = l.dataChannel ++ transmitted (afterCommand i l.blockA).outputs := rfl
@[simp] theorem senderRuns_ackChannel : (senderRuns l i).ackChannel = l.ackChannel := rfl
@[simp] theorem senderRuns_timer :
    (senderRuns l i).timer = (afterCommand i l.blockA).outputs.foldl timerTakes l.timer := rfl
@[simp] theorem senderRuns_accepted : (senderRuns l i).accepted = l.accepted := rfl
@[simp] theorem senderRuns_delivered : (senderRuns l i).delivered = l.delivered := rfl

@[simp] theorem receiverRuns_blockA : (receiverRuns l i).blockA = l.blockA := rfl
@[simp] theorem receiverRuns_blockB : (receiverRuns l i).blockB = afterCommand i l.blockB := rfl
@[simp] theorem receiverRuns_dataChannel : (receiverRuns l i).dataChannel = l.dataChannel := rfl
@[simp] theorem receiverRuns_ackChannel :
    (receiverRuns l i).ackChannel = l.ackChannel ++ transmitted (afterCommand i l.blockB).outputs := rfl
@[simp] theorem receiverRuns_timer : (receiverRuns l i).timer = l.timer := rfl
@[simp] theorem receiverRuns_accepted : (receiverRuns l i).accepted = l.accepted := rfl
@[simp] theorem receiverRuns_delivered :
    (receiverRuns l i).delivered = l.delivered ++ deliveries (afterCommand i l.blockB).outputs := rfl

end Runs

/-- Everything an action of the environment can do (60_exceptions.md R131 to R133, R136). -/
inductive LinkMove (l : Link) : LinkAction → Link → Prop
  | submit (m : Message) : LinkMove l (.submit m)
      { senderRuns l (.sndSubmit m) with
        accepted :=
          if (senderRuns l (.sndSubmit m)).blockA.response = some (respond .submitAccepted) then l.accepted ++ [m]
          else l.accepted }
  | dataArrives (asSeen : Packet) (p : Packet) (rest : List Packet) (inFlight : l.dataChannel = p :: rest) :
      LinkMove l (.dataArrives asSeen) (receiverRuns { l with dataChannel := rest } (.rcvPkt asSeen))
  | dataLost (p : Packet) (rest : List Packet) (inFlight : l.dataChannel = p :: rest) :
      LinkMove l .dataLost { l with dataChannel := rest }
  | ackArrives (asSeen : Packet) (p : Packet) (rest : List Packet) (inFlight : l.ackChannel = p :: rest) :
      LinkMove l (.ackArrives asSeen) (senderRuns { l with ackChannel := rest } (.sndPkt asSeen))
  | ackLost (p : Packet) (rest : List Packet) (inFlight : l.ackChannel = p :: rest) :
      LinkMove l .ackLost { l with ackChannel := rest }
  | timerExpires (armed : l.timer = .armed) :
      LinkMove l .timerExpires (senderRuns { l with timer := .stopped } .sndTimeout)

theorem linkMove_of_linkAct {l l' : Link} {x : LinkAction} (h : linkAct l x = some l') : LinkMove l x l' := by
  cases x with
  | submit m => cases h; exact .submit m
  | dataArrives asSeen =>
    cases hc : l.dataChannel with
    | nil => simp [linkAct, hc] at h
    | cons p rest => simp only [linkAct, hc, Option.some.injEq] at h; exact h ▸ .dataArrives asSeen p rest hc
  | dataLost =>
    cases hc : l.dataChannel with
    | nil => simp [linkAct, hc] at h
    | cons p rest => simp only [linkAct, hc, Option.some.injEq] at h; exact h ▸ .dataLost p rest hc
  | ackArrives asSeen =>
    cases hc : l.ackChannel with
    | nil => simp [linkAct, hc] at h
    | cons p rest => simp only [linkAct, hc, Option.some.injEq] at h; exact h ▸ .ackArrives asSeen p rest hc
  | ackLost =>
    cases hc : l.ackChannel with
    | nil => simp [linkAct, hc] at h
    | cons p rest => simp only [linkAct, hc, Option.some.injEq] at h; exact h ▸ .ackLost p rest hc
  | timerExpires =>
    cases ht : l.timer with
    | stopped => simp [linkAct, ht] at h
    | misused => simp [linkAct, ht] at h
    | armed => simp only [linkAct, ht, Option.some.injEq] at h; exact h ▸ .timerExpires ht

/-- A run of at least one action is that action and a run of the others. -/
theorem linkRun_cons_eq_some_iff {x : LinkAction} {rest : List LinkAction} {l l' : Link} :
    linkRun (x :: rest) l = some l' ↔ ∃ m, linkAct l x = some m ∧ linkRun rest m = some l' := Option.bind_eq_some_iff

/-! ## The timer service of a link -/

/-- The status of a timer service that was never misused. -/
def timerStatus : Bool → TimerService
  | true => .armed
  | false => .stopped

/-- The service and the shadow bit agree exactly when the service has the status the bit says. -/
theorem eq_timerStatus_iff (t : TimerService) (armed : Bool) :
    t = timerStatus armed ↔ t ≠ .misused ∧ (t = .armed ↔ armed = true) := by
  cases t <;> cases armed <;> simp [timerStatus]

theorem timerInStep_iff (l : Link) :
    TimerInStep l ↔ SenderInvariant l.blockA.sender ∧ l.timer = timerStatus l.blockA.sender.timer_armed := by
  rw [eq_timerStatus_iff]

/-- Records that alternate on the timer port leave the service in the status they say. -/
theorem foldl_timerTakes {o : List Output} {armed armed' : Bool} (h : timerPortAfter armed o = some armed') :
    o.foldl timerTakes (timerStatus armed) = timerStatus armed' := by
  induction o generalizing armed with
  | nil => cases h; rfl
  | cons x o ih =>
    cases x with
    | tx p => exact ih h
    | deliver m => exact ih h
    | evt e => exact ih h
    | timerStart =>
      cases armed with
      | true => simp at h
      | false => exact ih h
    | timerStop =>
      cases armed with
      | true => exact ih h
      | false => simp at h

/-- Only block A and the service matter. -/
theorem timerInStep_congr {l l' : Link} (h : TimerInStep l) (hblock : l'.blockA = l.blockA) (ht : l'.timer = l.timer) :
    TimerInStep l' := by
  rwa [TimerInStep, hblock, ht]

/-- Block A runs a command with the service in step; an expiry has stopped the service before the timeout is given. -/
theorem timerInStep_senderRuns {l : Link} {i : Instr} (hs : SenderInvariant l.blockA.sender)
    (ht : l.timer = timerStatus (if i = .sndTimeout then false else l.blockA.sender.timer_armed)) :
    TimerInStep (senderRuns l i) := by
  have hexec := exec_eq_afterCommand i l.blockA
  have hport := foldl_timerTakes (timerPortAlternates _ _ i hs hexec)
  rw [← ht] at hport
  exact (timerInStep_iff _).mpr ⟨senderInvariant_exec hs hexec, hport⟩

/-- Every action keeps the timer service in step: those that run block A by its records, the others do not touch it. -/
theorem timerInStep_linkMove {l l' : Link} {x : LinkAction} (h : TimerInStep l) (hmove : LinkMove l x l') :
    TimerInStep l' := by
  obtain ⟨hs, ht⟩ := (timerInStep_iff l).mp h
  cases hmove with
  | submit m =>
    have hruns : TimerInStep (senderRuns l (.sndSubmit m)) := timerInStep_senderRuns hs (by rwa [if_neg nofun])
    exact timerInStep_congr hruns rfl rfl
  | dataArrives => exact timerInStep_congr h (receiverRuns_blockA _ _) (receiverRuns_timer _ _)
  | dataLost => exact timerInStep_congr h rfl rfl
  | ackArrives asSeen p rest =>
    exact timerInStep_senderRuns (l := { l with ackChannel := rest }) hs (by rwa [if_neg nofun])
  | ackLost => exact timerInStep_congr h rfl rfl
  | timerExpires =>
    exact timerInStep_senderRuns (l := { l with timer := .stopped }) hs (by rw [if_pos rfl]; rfl)

theorem timerInStep_initialLink : TimerInStep initialLink :=
  (timerInStep_iff _).mpr ⟨senderInvariant_reset, rfl⟩

theorem timerInStep_linkRun {actions : List LinkAction} {l l' : Link} (h : TimerInStep l)
    (hrun : linkRun actions l = some l') : TimerInStep l' := by
  induction actions generalizing l with
  | nil => cases hrun; exact h
  | cons x rest ih =>
    obtain ⟨m, hact, hrest⟩ := linkRun_cons_eq_some_iff.mp hrun
    exact ih (timerInStep_linkMove h (linkMove_of_linkAct hact)) hrest

/-- Settles O58: the records of block A alternate on the timer port, so the service follows its shadow bit. -/
theorem linkNeverMisusesTheTimer : Obligations.LinkNeverMisusesTheTimer :=
  ⟨timerInStep_initialLink, fun _ _ _ h hact => timerInStep_linkMove h (linkMove_of_linkAct hact),
    fun _ _ hrun => And.right (timerInStep_linkRun timerInStep_initialLink hrun)⟩

end Sys2Proof.Machine
end

section
/-! What a command may depend on (70_reset_and_hazards.md R158): two good senders that agree on every register and every live
slot react alike, and agree so again. -/

namespace Sys2Proof.Machine

open Config

section Senders

variable {s t s' t' : SenderState} {k n n' : Nat}

theorem SameLiveWindow.liveCount_eq (h : SameLiveWindow s t) : liveCount s = liveCount t := by
  obtain ⟨-, -, hwindow, hack, -, -, -⟩ := h
  rw [liveCount, liveCount, hwindow, hack]

theorem SameLiveWindow.liveSlot_eq (h : SameLiveWindow s t) (hk : k < liveCount s) : liveSlot s k = liveSlot t k := by
  obtain ⟨-, -, -, -, -, -, hslots⟩ := h
  exact hslots k hk

theorem SameLiveWindow.windowcount_eq (h : SameLiveWindow s t) : s.windowcount = t.windowcount := by
  obtain ⟨-, -, hwindow, -, -, -, -⟩ := h
  exact hwindow

theorem SameLiveWindow.nextseqnum_eq (h : SameLiveWindow s t) : s.nextseqnum = t.nextseqnum := by
  obtain ⟨-, -, -, -, hnext, -, -⟩ := h
  exact hnext

theorem SameLiveWindow.timer_eq (h : SameLiveWindow s t) : s.timer_armed = t.timer_armed := by
  obtain ⟨-, -, -, -, -, htimer, -⟩ := h
  exact htimer

/-- Two senders react alike: the same records, the same response, and the same live window after. -/
structure ReactAlike (x y : Reaction SenderState) : Prop where
  outputs : x.outputs = y.outputs
  response : x.response = y.response
  window : SameLiveWindow x.state y.state

/-- R83: an initialisation reads the shadow bit only. -/
theorem SameLiveWindow.reactAlike_sndInit (h : SameLiveWindow s t) : ReactAlike (sndInit s) (sndInit t) where
  outputs := by rw [sndInit_outputs, sndInit_outputs, h.timer_eq]
  response := rfl
  window := ⟨rfl, rfl, rfl, rfl, rfl, rfl, fun _ _ => rfl⟩

/-- R85: an insertion reads registers only, and the slot it makes live is the new packet's in both. -/
theorem SameLiveWindow.reactAlike_sndAccept (h : SameLiveWindow s t) (hs : SenderInvariant s) (ht : SenderInvariant t)
    (m : Message) (hroom : liveCount s < WINDOWSIZE) : ReactAlike (sndAccept m s) (sndAccept m t) := by
  have hroom' : liveCount t < WINDOWSIZE := h.liveCount_eq ▸ hroom
  have hslots : ∀ k < liveCount (sndAccept m s).state,
      liveSlot (sndAccept m s).state k = liveSlot (sndAccept m t).state k := fun k hk => by
    rw [liveCount_sndAccept m hroom] at hk
    have hplace : k < WINDOWSIZE := (Nat.le_of_lt_succ hk).trans_lt hroom
    rw [hs.liveSlot_sndAccept m hplace hroom, ht.liveSlot_sndAccept m hplace hroom', ← h.liveCount_eq, h.nextseqnum_eq]
    split_ifs with hnew
    · rfl
    · exact h.liveSlot_eq (lt_of_le_of_ne (Nat.le_of_lt_succ hk) hnew)
  obtain ⟨hfirst, hlast, hwindow, hack, hnext, htimer, -⟩ := h
  rw [sndAccept_eq, sndAccept_eq] at hslots ⊢
  exact ⟨by rw [hnext, hwindow], rfl,
    ⟨hfirst, congrArg (nextIndex ·) hlast, congrArg (· + 1) hwindow, hack, congrArg (nextSeq ·) hnext,
      by rw [hwindow, htimer], hslots⟩⟩

/-- R84, R85. -/
theorem SameLiveWindow.reactAlike_sndSubmit (h : SameLiveWindow s t) (hs : SenderInvariant s) (ht : SenderInvariant t)
    (m : Message) : ReactAlike (sndSubmit m s) (sndSubmit m t) := by
  by_cases hroom : liveCount s < WINDOWSIZE
  · rw [sndSubmit_of_lt m hroom, sndSubmit_of_lt m (h.liveCount_eq ▸ hroom)]
    exact h.reactAlike_sndAccept hs ht m hroom
  · rw [sndSubmit_of_not_lt m hroom, sndSubmit_of_not_lt m (h.liveCount_eq ▸ hroom)]
    exact ⟨rfl, rfl, h⟩

/-- The slide passes live slots only, so it goes equally far in both. -/
theorem AckOutcome.le_of_sameLiveWindow (h : SameLiveWindow s t) (hs : AckOutcome s s' k n) (ht : AckOutcome t t' k n') :
    n' ≤ n := by
  have hlive := hs.liveCount_add
  have hlive' := ht.liveCount_add
  by_contra hlt
  have hleft : 0 < liveCount s' := by
    have hsame := h.liveCount_eq
    omega
  have hstop := hs.oldest hleft
  rw [hs.slots 0 hleft, Nat.add_zero, Bool.or_eq_false_iff, decide_eq_false_iff_not] at hstop
  obtain ⟨hunacked, hne⟩ := hstop
  have hacked := (ht.passed n (by omega)).resolve_left hne
  rw [← h.liveSlot_eq (by omega), hunacked] at hacked
  exact Bool.false_ne_true hacked

theorem SameLiveWindow.symm (h : SameLiveWindow s t) : SameLiveWindow t s := by
  have hlive := h.liveCount_eq
  obtain ⟨hfirst, hlast, hwindow, hack, hnext, htimer, hslots⟩ := h
  exact ⟨hfirst.symm, hlast.symm, hwindow.symm, hack.symm, hnext.symm, htimer.symm,
    fun k hk => (hslots k (hlive ▸ hk)).symm⟩

/-- The windows after the same acknowledgment. -/
theorem SameLiveWindow.of_ackOutcome (h : SameLiveWindow s t) (hs : AckOutcome s s' k n) (ht : AckOutcome t t' k n') :
    SameLiveWindow s' t' := by
  obtain rfl : n = n' :=
    le_antisymm (AckOutcome.le_of_sameLiveWindow h.symm ht hs) (AckOutcome.le_of_sameLiveWindow h hs ht)
  have hlive := hs.liveCount_add
  have hlive' := ht.liveCount_add
  have hsame := h.liveCount_eq
  have hslots : ∀ j < liveCount s', liveSlot s' j = liveSlot t' j := fun j hj => by
    rw [hs.slots j hj, ht.slots j (by omega), h.liveSlot_eq (by omega)]
  obtain ⟨hfirst, hlast, hwindow, hack, hnext, -, -⟩ := h
  refine ⟨BitVec.eq_of_toNat_eq ?_, ?_, BitVec.eq_of_toNat_eq ?_, BitVec.eq_of_toNat_eq ?_, ?_, ?_, hslots⟩
  · rw [hs.first, ht.first, windowIndex, windowIndex, hfirst]
  · rw [hs.last, ht.last, hlast]
  · exact Nat.succ.inj (hs.outstanding.trans ((congrArg BitVec.toNat hwindow).trans ht.outstanding.symm))
  · have hcount := congrArg BitVec.toNat hack
    have hbefore := hs.ackcount
    have hbefore' := ht.ackcount
    omega
  · rw [hs.next, ht.next, hnext]
  · rw [hs.timer, ht.timer, hwindow]

/-- R86 to R94: the tests of an acknowledgment read live slots only. -/
theorem SameLiveWindow.newAck_iff (h : SameLiveWindow s t) (hs : SenderInvariant s) (ht : SenderInvariant t) (a : Word) :
    NewAck s a ↔ NewAck t a := by
  rw [hs.newAck_iff, ht.newAck_iff, ← h.liveCount_eq]
  refine exists_congr fun k => and_congr_right fun hk => ?_
  rw [h.liveSlot_eq hk]

/-- R92 to R94: what an acknowledgment of a live slot does. -/
theorem SameLiveWindow.reactAlike_ackReaction (h : SameLiveWindow s t) (hs : SenderInvariant s) (ht : SenderInvariant t)
    (hk : k < liveCount s) (hunacked : (liveSlot s k).acked = false) : ReactAlike (ackReaction s k) (ackReaction t k) := by
  obtain ⟨n, hn⟩ := hs.exists_ackOutcome hk hunacked
  obtain ⟨n', hn'⟩ := ht.exists_ackOutcome (h.liveCount_eq ▸ hk) (h.liveSlot_eq hk ▸ hunacked)
  refine ⟨?_, rfl, h.of_ackOutcome hn hn'⟩
  rw [ackReaction, ackReaction, h.windowcount_eq]

theorem SameLiveWindow.reactAlike_sndPkt (h : SameLiveWindow s t) (hs : SenderInvariant s) (ht : SenderInvariant t)
    (p : Packet) : ReactAlike (sndPkt p s) (sndPkt p t) := by
  rcases hs.sndPkt_outcomes p with ⟨hp, hsnd⟩ | ⟨hp, hold, hsnd⟩ | ⟨hp, k, hk, hseq, hunacked, hsnd⟩ <;> rw [hsnd]
  · rw [sndPkt_of_corrupted hp]
    exact ⟨rfl, rfl, h⟩
  · rw [sndPkt_of_not_newAck hp (mt (h.newAck_iff hs ht _).mpr hold)]
    exact ⟨rfl, rfl, h⟩
  · rw [ht.sndPkt_liveSlot hp (h.liveCount_eq ▸ hk) (h.liveSlot_eq hk ▸ hseq) (h.liveSlot_eq hk ▸ hunacked)]
    exact h.reactAlike_ackReaction hs ht hk hunacked

/-- R95, R96: a timeout reads the shadow bit and the oldest live slot. -/
theorem SameLiveWindow.reactAlike_sndTimeout (h : SameLiveWindow s t) (hs : SenderInvariant s) (ht : SenderInvariant t) :
    ReactAlike (sndTimeout s) (sndTimeout t) := by
  cases harmed : s.timer_armed with
  | false =>
    rw [sndTimeout_of_not_armed harmed, sndTimeout_of_not_armed (h.timer_eq ▸ harmed)]
    exact ⟨rfl, rfl, h⟩
  | true =>
    have hlive : 0 < liveCount s := Nat.lt_of_lt_of_le (hs.timer_armed_iff.mp harmed) (Nat.le_add_right _ _)
    rw [hs.sndTimeout_of_armed harmed, ht.sndTimeout_of_armed (h.timer_eq ▸ harmed), h.liveSlot_eq hlive]
    exact ⟨rfl, rfl, h⟩

end Senders

/-- Blocks with the same receiver, whose senders react alike, end a command alike. -/
theorem concludeSender_alike {s t : State} {x y : Reaction SenderState} (h : ReactAlike x y) (hr : s.receiver = t.receiver) :
    (concludeSender s x).outputs = (concludeSender t y).outputs
      ∧ (concludeSender s x).response = (concludeSender t y).response
      ∧ SameLiveWindow (concludeSender s x).sender (concludeSender t y).sender
      ∧ (concludeSender s x).receiver = (concludeSender t y).receiver :=
  ⟨h.outputs, congrArg some h.response, h.window, hr⟩

/-- Settles O55: every command of U2 reacts alike to the two senders, and the commands of the other units read no sender. -/
theorem deadSlotsAreNeverRead : Obligations.DeadSlotsAreNeverRead := by
  intro s s' t t' i hs hs' hwindow hreceiver h h'
  by_cases h2 : ofUnit 2#2 i
  · rcases (ofUnit_sender_iff i).mp h2 with rfl | ⟨m, rfl⟩ | ⟨p, rfl⟩ | rfl
    · rw [eq_of_exec_sndInit h, eq_of_exec_sndInit h']
      exact concludeSender_alike hwindow.reactAlike_sndInit hreceiver
    · rw [eq_of_exec_sndSubmit h, eq_of_exec_sndSubmit h']
      exact concludeSender_alike (hwindow.reactAlike_sndSubmit hs hs' m) hreceiver
    · rw [eq_of_exec_sndPkt h, eq_of_exec_sndPkt h']
      exact concludeSender_alike (hwindow.reactAlike_sndPkt hs hs' p) hreceiver
    · rw [eq_of_exec_sndTimeout h, eq_of_exec_sndTimeout h']
      exact concludeSender_alike (hwindow.reactAlike_sndTimeout hs hs') hreceiver
  by_cases h3 : ofUnit 3#2 i
  · obtain ⟨f, hf⟩ := exec_of_receiverUnit h3
    cases (hf s).symm.trans h
    cases (hf s').symm.trans h'
    simp only [concludeReceiver_outputs, concludeReceiver_response, concludeReceiver_sender, concludeReceiver_receiver,
      hreceiver, true_and, and_true]
    exact hwindow
  · obtain ⟨r, -, hr⟩ := exec_of_leafUnit h2 h3
    cases (hr s).symm.trans h
    cases (hr s').symm.trans h'
    exact ⟨rfl, rfl, hwindow, hreceiver⟩

end Sys2Proof.Machine
end

section
/-! The link (70_reset_and_hazards.md R159), seen as two engines and two channels that number messages by their place among
those accepted: which messages the sender holds acknowledged, which the receiver has, what is in flight, and how each command
moves them. -/

namespace Sys2Proof.Machine

open Config

/-! ## The packet of a message -/

section Packets

variable {accepted : List Message} {a : Nat}

/-- The packet of message `a` carries `a mod S` and the message, and is not corrupted. -/
theorem packetNumbered_fields (accepted : List Message) (a : Nat) :
    (packetNumbered accepted a).seqnum.toNat = a % SEQSPACE ∧ (packetNumbered accepted a).payload = accepted.getD a 0
      ∧ corrupted (packetNumbered accepted a) = false := by
  obtain ⟨hseq, -, hpayload, hok⟩ := dataPacket_fields (BitVec.ofNat SEQ_W (a % SEQSPACE)) (accepted.getD a 0)
  refine ⟨hseq.trans ?_, hpayload, hok⟩
  exact Nat.mod_eq_of_lt ((Nat.mod_lt a (by decide)).trans (by decide))

/-- Messages accepted later leave the packets of the earlier ones. -/
theorem packetNumbered_append (later : List Message) (ha : a < accepted.length) :
    packetNumbered (accepted ++ later) a = packetNumbered accepted a := by
  rw [packetNumbered, packetNumbered, List.getD_append _ _ _ _ ha]

/-- The packet of the message just accepted is the one its submission builds. -/
theorem packetNumbered_length {n : BitVec SEQ_W} (hn : n.toNat = accepted.length % SEQSPACE) (m : Message) :
    packetNumbered (accepted ++ [m]) accepted.length = dataPacket n m := by
  have hnumber : BitVec.ofNat SEQ_W (accepted.length % SEQSPACE) = n := by rw [← hn, BitVec.ofNat_toNat, BitVec.setWidth_eq]
  rw [packetNumbered, hnumber, List.getD_append_right _ _ _ _ le_rfl, Nat.sub_self]
  rfl

/-- Delivered messages that begin the accepted ones still do so with the next ones after them. -/
theorem append_getD_isPrefix {delivered : List Message} (h : delivered <+: accepted) {n : Nat}
    (hn : ∀ j < n, delivered.length + j < accepted.length) :
    delivered ++ (List.range n).map (fun j => accepted.getD (delivered.length + j) 0) <+: accepted := by
  induction n with
  | zero => simpa using h
  | succ n ih =>
    obtain ⟨rest, hrest⟩ := ih fun j hj => hn j (Nat.lt_succ_of_lt hj)
    have hmore := hn n n.lt_succ_self
    rw [List.range_succ, List.map_append, ← List.append_assoc]
    generalize hl : delivered ++ (List.range n).map (fun j => accepted.getD (delivered.length + j) 0) = front at hrest
    have hfront : front.length = delivered.length + n := by simp [← hl]
    cases rest with
    | nil =>
      rw [List.append_nil] at hrest
      rw [← hrest, hfront] at hmore
      exact absurd hmore (lt_irrefl _)
    | cons m rest =>
      have hm : accepted.getD (delivered.length + n) 0 = m := by
        rw [← hrest, ← hfront, List.getD_append_right _ _ _ _ le_rfl, Nat.sub_self]
        rfl
      refine ⟨rest, ?_⟩
      rw [List.map_singleton, hm, List.append_assoc]
      exact hrest

end Packets

/-! ## Packets in flight -/

section InFlight

variable {names names' : Packet → Nat → Prop} {channel rest : List Packet} {ahead ahead' : Nat → Prop} {p : Packet} {a : Nat}

/-- What the relation says of its right argument holds of the right list. -/
theorem forall_right_of_forall₂ {numbers : List Nat} {P : Nat → Prop} (h : List.Forall₂ names channel numbers)
    (hP : ∀ p a, names p a → P a) : ∀ a ∈ numbers, P a :=
  ((List.forall₂_and_left _ _).mp (h.flip.imp fun a p hpa => ⟨hP p a hpa, hpa⟩)).left

/-- Every packet in flight names a message, and no message named earlier or in `ahead` is `W` or more after one named. -/
def InFlight (names : Packet → Nat → Prop) (channel : List Packet) (ahead : Nat → Prop) : Prop :=
  ∃ numbers, List.Forall₂ names channel numbers ∧ InFlightOrder numbers
    ∧ ∀ a ∈ numbers, ∀ i, ahead i → i < a + WINDOWSIZE

theorem InFlight.nil : InFlight names [] ahead := ⟨[], .nil, .nil, by simp⟩

theorem InFlight.imp (h : InFlight names channel ahead) (hnames : ∀ p a, names p a → names' p a)
    (hahead : ∀ i, ahead' i → ahead i) : InFlight names' channel ahead' := by
  obtain ⟨numbers, hnumbers, horder, hbound⟩ := h
  exact ⟨numbers, hnumbers.imp hnames, horder, fun a ha i hi => hbound a ha i (hahead i hi)⟩

/-- The oldest packet leaves the channel: the message it names counts as ahead of what is still in flight. -/
theorem InFlight.uncons (h : InFlight names (p :: rest) ahead) :
    ∃ a, names p a ∧ (∀ i, ahead i → i < a + WINDOWSIZE) ∧ InFlight names rest fun i => ahead i ∨ i = a := by
  obtain ⟨_, hnumbers, horder, hbound⟩ := h
  cases hnumbers with
  | @cons _ a _ numbers hp hrest =>
    obtain ⟨hfirst, horder'⟩ := List.pairwise_cons.mp horder
    refine ⟨a, hp, hbound a List.mem_cons_self, numbers, hrest, horder', fun b hb i hi => ?_⟩
    rcases hi with hi | rfl
    · exact hbound b (List.mem_cons_of_mem _ hb) i hi
    · exact hfirst b hb

theorem InFlight.tail (h : InFlight names (p :: rest) ahead) : InFlight names rest ahead := by
  obtain ⟨_, -, -, hrest⟩ := h.uncons
  exact hrest.imp (fun _ _ => id) fun _ => .inl

/-- A packet enters the channel. -/
theorem InFlight.append_single (h : InFlight names channel ahead) (hp : names p a)
    (hold : ∀ q b, names q b → b < a + WINDOWSIZE) (hahead : ∀ i, ahead i → i < a + WINDOWSIZE) :
    InFlight names (channel ++ [p]) ahead := by
  obtain ⟨numbers, hnumbers, horder, hbound⟩ := h
  refine ⟨numbers ++ [a], List.rel_append hnumbers (.cons hp .nil), ?_, ?_⟩
  · refine List.pairwise_append.mpr ⟨horder, List.pairwise_singleton _ _, fun b hb c hc => ?_⟩
    obtain rfl := List.mem_singleton.mp hc
    exact forall_right_of_forall₂ hnumbers hold b hb
  · intro b hb
    rcases List.mem_append.mp hb with hb | hb
    · exact hbound b hb
    · obtain rfl := List.mem_singleton.mp hb
      exact hahead

end InFlight

end Sys2Proof.Machine
end

section
/-! The link invariant by its parts, one for each engine and each channel, and what each command does to them: a submission
and a timeout send data, an arriving data packet is taken and acknowledged, an arriving acknowledgment is accepted or ignored
(70_reset_and_hazards.md R159). -/

namespace Sys2Proof.Machine

open Config

variable {s s' : SenderState} {r r' : ReceiverState} {data acks : List Packet} {accepted delivered : List Message}
variable {a i k n : Nat}

/-! ## The two ends -/

/-- The number of the oldest live message; that of the next message where none is live. -/
def oldestLive (s : SenderState) (accepted : List Message) : Nat := accepted.length - liveCount s

/-- The sender has slid message `i` out, or holds it acknowledged. -/
abbrev Acknowledged (s : SenderState) (accepted : List Message) (i : Nat) : Prop :=
  i < oldestLive s accepted
    ∨ ∃ k < liveCount s, i = oldestLive s accepted + k ∧ (liveSlot s k).acked = true

/-- Message `i` waits in the receiver's buffer. -/
abbrev Holds (r : ReceiverState) (delivered : List Message) (i : Nat) : Prop :=
  delivered.length ≤ i ∧ i < delivered.length + WINDOWSIZE ∧ (memRead r.rcv_buf i).seqnum.toNat = i % SEQSPACE

/-- The receiver has delivered message `i`, or holds it. -/
abbrev Has (r : ReceiverState) (delivered : List Message) (i : Nat) : Prop :=
  i < delivered.length ∨ Holds r delivered i

/-- The sender's window holds the packets of the messages accepted last. -/
structure WindowNumbered (s : SenderState) (accepted : List Message) : Prop where
  live_le : liveCount s ≤ accepted.length
  next : s.nextseqnum.toNat = accepted.length % SEQSPACE
  slot : ∀ k < liveCount s, (liveSlot s k).pkt = packetNumbered accepted (oldestLive s accepted + k)

/-- The messages delivered begin the messages accepted, and what waits are packets of accepted messages. -/
structure BufferNumbered (r : ReceiverState) (delivered accepted : List Message) : Prop where
  in_order : delivered <+: accepted
  expected : r.expectedseqnum.toNat = delivered.length % SEQSPACE
  waiting : ∀ i, Holds r delivered i → i < accepted.length ∧ memRead r.rcv_buf i = packetNumbered accepted i

/-- A data packet in flight is that of an accepted message. -/
abbrev DataNames (accepted : List Message) (p : Packet) (a : Nat) : Prop :=
  a < accepted.length ∧ p = packetNumbered accepted a

/-- An acknowledgment in flight names a message that the receiver has. -/
abbrev AckNames (has : Nat → Prop) (q : Packet) (a : Nat) : Prop :=
  has a ∧ corrupted q = false ∧ q.acknum.toNat = a % SEQSPACE

/-- The link invariant of sender `s` and receiver `r`, of the channels and of the two histories. -/
structure Consistent (s : SenderState) (r : ReceiverState) (data acks : List Packet) (accepted delivered : List Message) :
    Prop where
  sender_good : SenderInvariant s
  receiver_good : ReceiverInvariant r
  window : WindowNumbered s accepted
  buffer : BufferNumbered r delivered accepted
  next_missing : ¬ Holds r delivered delivered.length
  acknowledged : ∀ i, Acknowledged s accepted i → Has r delivered i
  data_in_flight : InFlight (DataNames accepted) data (Has r delivered)
  acks_in_flight : InFlight (AckNames (Has r delivered)) acks (Acknowledged s accepted)

theorem WindowNumbered.oldestLive_add (h : WindowNumbered s accepted) :
    oldestLive s accepted + liveCount s = accepted.length := Nat.sub_add_cancel h.live_le

theorem BufferNumbered.lt_of_has (h : BufferNumbered r delivered accepted) (hi : Has r delivered i) :
    i < accepted.length := by
  rcases hi with hi | hi
  · exact hi.trans_le h.in_order.length_le
  · obtain ⟨hlt, -⟩ := h.waiting i hi
    exact hlt

section Consequences

variable (h : Consistent s r data acks accepted delivered)
include h

/-- The sender is no more than `W` ahead of its oldest live message. -/
theorem Consistent.accepted_le : accepted.length ≤ oldestLive s accepted + WINDOWSIZE := by
  have hlive := h.window.oldestLive_add
  have hfits := h.sender_good.liveCount_le
  omega

/-- What has slid out of the sender's window has been delivered. -/
theorem Consistent.oldestLive_le : oldestLive s accepted ≤ delivered.length := by
  by_contra hlater
  rcases h.acknowledged delivered.length (.inl (not_le.mp hlater)) with hself | hnext
  · exact lt_irrefl _ hself
  · exact h.next_missing hnext

theorem Consistent.lt_of_has (hi : Has r delivered i) : i < accepted.length := h.buffer.lt_of_has hi

/-- Every accepted message is less than `W` after a live one. -/
theorem Consistent.lt_add_of_live (ha : oldestLive s accepted ≤ a) (hi : i < accepted.length) : i < a + WINDOWSIZE := by
  have hfits := h.accepted_le
  omega

/-! ## Losses and sendings -/

/-- The environment drops the oldest packet of a channel (60_exceptions.md R133). -/
theorem Consistent.dropData {p : Packet} {rest : List Packet} (hdata : data = p :: rest) :
    Consistent s r rest acks accepted delivered :=
  { h with data_in_flight := InFlight.tail (p := p) (hdata ▸ h.data_in_flight) }

theorem Consistent.dropAck {p : Packet} {rest : List Packet} (hacks : acks = p :: rest) :
    Consistent s r data rest accepted delivered :=
  { h with acks_in_flight := InFlight.tail (p := p) (hacks ▸ h.acks_in_flight) }

/-- The sender sends the packet of a live message. -/
theorem Consistent.sendData (ha : oldestLive s accepted ≤ a) (hlt : a < accepted.length) :
    Consistent s r (data ++ [packetNumbered accepted a]) acks accepted delivered :=
  { h with
    data_in_flight := h.data_in_flight.append_single ⟨hlt, rfl⟩ (fun _ _ hb => h.lt_add_of_live ha hb.left)
      fun _ hi => h.lt_add_of_live ha (h.lt_of_has hi) }

/-- The receiver acknowledges a message that it has. -/
theorem Consistent.sendAck {q : Packet} (ha : AckNames (Has r delivered) q a)
    (hbound : ∀ i, Has r delivered i → i < a + WINDOWSIZE) : Consistent s r data (acks ++ [q]) accepted delivered :=
  { h with
    acks_in_flight := h.acks_in_flight.append_single ha (fun _ b hb => hbound b hb.left)
      fun i hi => hbound i (h.acknowledged i hi) }

end Consequences

/-! ## The sender's commands -/

/-- A timeout leaves the sender, and sends nothing or the packet of its oldest message (42_sender_window_fsm.md R95, R96). -/
theorem consistent_sndTimeout (h : Consistent s r data acks accepted delivered) :
    Consistent s r (data ++ transmitted (sndTimeout s).outputs) acks accepted delivered := by
  cases harmed : s.timer_armed with
  | false =>
    rw [sndTimeout_of_not_armed harmed]
    simpa using h
  | true =>
    have hlive : 0 < liveCount s :=
      Nat.lt_of_lt_of_le (h.sender_good.timer_armed_iff.mp harmed) (Nat.le_add_right _ _)
    have hcount := h.window.oldestLive_add
    rw [h.sender_good.sndTimeout_of_armed harmed, h.window.slot 0 hlive]
    exact h.sendData le_rfl (by omega)

/-- An accepted message is live; the messages before it keep their numbers (R85). -/
theorem oldestLive_sndAccept (m : Message) (hroom : liveCount s < WINDOWSIZE) :
    oldestLive (sndAccept m s).state (accepted ++ [m]) = oldestLive s accepted := by
  rw [oldestLive, oldestLive, liveCount_sndAccept m hroom, List.length_append]
  exact Nat.add_sub_add_right _ _ _

/-- The window's numbers after a submission. -/
theorem windowNumbered_sndAccept (h : WindowNumbered s accepted) (hs : SenderInvariant s) (m : Message)
    (hroom : liveCount s < WINDOWSIZE) : WindowNumbered (sndAccept m s).state (accepted ++ [m]) where
  live_le := by
    rw [liveCount_sndAccept m hroom, List.length_append]
    exact Nat.add_le_add_right h.live_le _
  next := by
    rw [List.length_append, List.length_singleton, ← Nat.mod_add_mod, ← h.next]
    exact nextSeq_toNat _
  slot := fun k hk => by
    have hcount := h.oldestLive_add
    rw [liveCount_sndAccept m hroom] at hk
    rw [oldestLive_sndAccept m hroom]
    rcases Nat.lt_succ_iff_lt_or_eq.mp hk with hlt | rfl
    · rw [hs.liveSlot_sndAccept_old m hroom hlt, h.slot k hlt, packetNumbered_append _ (by omega)]
    · rw [hs.liveSlot_sndAccept_new m hroom, hcount, packetNumbered_length h.next]

/-- A submission acknowledges nothing. -/
theorem acknowledged_sndAccept (hs : SenderInvariant s) (m : Message) (hroom : liveCount s < WINDOWSIZE)
    (hi : Acknowledged (sndAccept m s).state (accepted ++ [m]) i) : Acknowledged s accepted i := by
  rw [Acknowledged, oldestLive_sndAccept m hroom, liveCount_sndAccept m hroom] at hi
  refine hi.imp id ?_
  rintro ⟨k, hk, hnumber, hacked⟩
  rcases Nat.lt_succ_iff_lt_or_eq.mp hk with hlt | rfl
  · exact ⟨k, hlt, hnumber, by rwa [hs.liveSlot_sndAccept_old m hroom hlt] at hacked⟩
  · rw [hs.liveSlot_sndAccept_new m hroom] at hacked
    exact absurd hacked Bool.false_ne_true

/-- What waits at the receiver is unchanged by a later message. -/
theorem BufferNumbered.append (h : BufferNumbered r delivered accepted) (later : List Message) :
    BufferNumbered r delivered (accepted ++ later) where
  in_order := h.in_order.trans ⟨later, rfl⟩
  expected := h.expected
  waiting := fun i hi => by
    obtain ⟨hlt, hpacket⟩ := h.waiting i hi
    exact ⟨by rw [List.length_append]; omega, by rw [hpacket, packetNumbered_append _ hlt]⟩

/-- A submission that is accepted: the message joins the window and the history, before its packet is sent. -/
theorem Consistent.insert (h : Consistent s r data acks accepted delivered) (m : Message)
    (hroom : liveCount s < WINDOWSIZE) :
    Consistent (sndAccept m s).state r data acks (accepted ++ [m]) delivered where
  sender_good := senderInvariant_sndAccept h.sender_good m hroom
  receiver_good := h.receiver_good
  window := windowNumbered_sndAccept h.window h.sender_good m hroom
  buffer := h.buffer.append [m]
  next_missing := h.next_missing
  acknowledged := fun i hi => h.acknowledged i (acknowledged_sndAccept h.sender_good m hroom hi)
  data_in_flight := by
    refine h.data_in_flight.imp (fun p a ⟨ha, hp⟩ => ⟨?_, ?_⟩) fun _ => id
    · rw [List.length_append]
      omega
    · rw [hp, packetNumbered_append _ ha]
  acks_in_flight := h.acks_in_flight.imp (fun _ _ => id) fun i hi => acknowledged_sndAccept h.sender_good m hroom hi

/-- A submission that is accepted sends the packet of its message (R85). -/
theorem consistent_sndAccept (h : Consistent s r data acks accepted delivered) (m : Message)
    (hroom : liveCount s < WINDOWSIZE) :
    Consistent (sndAccept m s).state r (data ++ transmitted (sndAccept m s).outputs) acks (accepted ++ [m]) delivered := by
  have hsent : transmitted (sndAccept m s).outputs = [packetNumbered (accepted ++ [m]) accepted.length] := by
    rw [packetNumbered_length h.window.next, sndAccept_eq]
    split <;> simp
  rw [hsent]
  refine (h.insert m hroom).sendData ?_ (by simp)
  rw [oldestLive_sndAccept m hroom]
  exact Nat.sub_le _ _

/-- The oldest live message after an acknowledgment: `n` messages slid out. -/
theorem AckOutcome.oldestLive_eq (hout : AckOutcome s s' k n) (h : WindowNumbered s accepted) :
    oldestLive s' accepted = oldestLive s accepted + n := by
  have hlive := hout.liveCount_add
  have hle := h.live_le
  simp only [oldestLive]
  omega

/-- An acknowledgment of live slot `k` acknowledges its message and no other. -/
theorem AckOutcome.acknowledged_or (hout : AckOutcome s s' k n) (h : WindowNumbered s accepted)
    (hi : Acknowledged s' accepted i) : Acknowledged s accepted i ∨ i = oldestLive s accepted + k := by
  have hlive := hout.liveCount_add
  rw [Acknowledged, hout.oldestLive_eq h] at hi
  rcases hi with hi | ⟨j, hj, rfl, hacked⟩
  · by_cases hbefore : i < oldestLive s accepted
    · exact .inl (.inl hbefore)
    · obtain ⟨j, rfl⟩ := Nat.exists_eq_add_of_le (not_lt.mp hbefore)
      rcases hout.passed j (by omega) with rfl | hacked
      · exact .inr rfl
      · exact .inl (.inr ⟨j, by omega, rfl, hacked⟩)
  · rw [hout.slots j hj, Bool.or_eq_true, decide_eq_true_eq] at hacked
    rcases hacked with hacked | rfl
    · exact .inl (.inr ⟨n + j, by omega, Nat.add_assoc _ _ _, hacked⟩)
    · exact .inr (Nat.add_assoc _ _ _)

/-- The window's numbers after an acknowledgment. -/
theorem AckOutcome.windowNumbered (hout : AckOutcome s s' k n) (h : WindowNumbered s accepted) :
    WindowNumbered s' accepted where
  live_le := by
    have hlive := hout.liveCount_add
    have hle := h.live_le
    omega
  next := by rw [hout.next, h.next]
  slot := fun j hj => by
    have hlive := hout.liveCount_add
    rw [hout.slots j hj, hout.oldestLive_eq h, h.slot (n + j) (by omega), Nat.add_assoc]

/-- The sender accepts an acknowledgment of live slot `k`, whose message the receiver has; the acknowledgment has left the
channel (R92, R93). -/
theorem Consistent.acknowledge (h : Consistent s r data acks accepted delivered) (hout : AckOutcome s s' k n)
    (hs' : SenderInvariant s') (hhas : Has r delivered (oldestLive s accepted + k))
    (hacks : InFlight (AckNames (Has r delivered)) acks fun i => Acknowledged s accepted i ∨ i = oldestLive s accepted + k) :
    Consistent s' r data acks accepted delivered :=
  { h with
    sender_good := hs'
    window := hout.windowNumbered h.window
    acknowledged := fun i hi => (hout.acknowledged_or h.window hi).elim (h.acknowledged i) fun heq => heq ▸ hhas
    acks_in_flight := hacks.imp (fun _ _ => id) fun _ => hout.acknowledged_or h.window }

/-- Of numbers less than `S = 2W` apart, the sequence numbers tell which is which. -/
theorem eq_of_mod_seqspace_eq {x y : Nat} (hmod : x % SEQSPACE = y % SEQSPACE) (hx : x < y + SEQSPACE)
    (hy : y < x + SEQSPACE) : x = y := by
  simp only [SEQSPACE, WINDOWSIZE] at *
  omega

/-- `n` is no more than `W` ahead of `a` where every number below it is less. -/
theorem le_add_windowSize_of_forall_lt (h : ∀ i < n, i < a + WINDOWSIZE) : n ≤ a + WINDOWSIZE := by
  by_contra hlater
  exact lt_irrefl _ (h _ (not_le.mp hlater))

/-- An acknowledgment arrives unchanged, or so changed that the checksum shows it. Where a live slot carries its number, that
is the message it names. -/
theorem consistent_sndPkt {p q : Packet} (h : Consistent s r data (q :: acks) accepted delivered)
    (hp : p = q ∨ corrupted p = true) :
    Consistent (sndPkt p s).state r (data ++ transmitted (sndPkt p s).outputs) acks accepted delivered := by
  have hs := h.sender_good
  rcases hs.sndPkt_outcomes p with ⟨-, hsnd⟩ | ⟨-, -, hsnd⟩ | ⟨hok, k, hk, hseq, hunacked, hsnd⟩ <;> rw [hsnd]
  · simpa using h.dropAck rfl
  · simpa [duplicateAck] using h.dropAck rfl
  · obtain rfl : p = q := hp.resolve_right (by simp [hok])
    obtain ⟨a, ⟨hhas, -, hnumber⟩, hahead, hrest⟩ := h.acks_in_flight.uncons
    obtain ⟨hslot, -, -⟩ := packetNumbered_fields accepted (oldestLive s accepted + k)
    have hlive := hs.liveCount_le
    have hlt := h.lt_of_has hhas
    have hle := h.accepted_le
    have hbehind : oldestLive s accepted ≤ a + WINDOWSIZE := le_add_windowSize_of_forall_lt fun i hi => hahead i (.inl hi)
    have htarget : a = oldestLive s accepted + k := by
      refine eq_of_mod_seqspace_eq ?_ ?_ ?_
      · rw [← hnumber, ← hseq, h.window.slot k hk, hslot]
      · exact hlt.trans_le (hle.trans (Nat.add_le_add (Nat.le_add_right _ _) (by decide)))
      · simp only [SEQSPACE]
        omega
    obtain ⟨n, hout⟩ := hs.exists_ackOutcome hk hunacked
    have hsent : transmitted (ackReaction s k).outputs = [] := by
      rw [ackReaction]
      split <;> rfl
    rw [hsent, List.append_nil]
    subst htarget
    exact (h.dropAck rfl).acknowledge hout (hout.senderInvariant hs hk hunacked) hhas hrest

/-! ## The receiver's command -/

/-- The link invariant after the receiver has reacted by `x`. -/
abbrev ConsistentAfter (s : SenderState) (data acks : List Packet) (accepted delivered : List Message)
    (x : Reaction ReceiverState) : Prop :=
  Consistent s x.state data (acks ++ transmitted x.outputs) accepted (delivered ++ deliveries x.outputs)

/-- A data packet that is not too old is accepted exactly where its message is not yet delivered (43_receiver_reorder_fsm.md
R109). -/
theorem inAcceptanceRange_packetNumbered_iff (hr : r.expectedseqnum.toNat = delivered.length % SEQSPACE)
    (hold : delivered.length ≤ a + WINDOWSIZE) (hnew : a < delivered.length + WINDOWSIZE) :
    InAcceptanceRange r (packetNumbered accepted a).seqnum ↔ delivered.length ≤ a := by
  obtain ⟨hseq, -, -⟩ := packetNumbered_fields accepted a
  rw [InAcceptanceRange, hr, hseq]
  simp only [SEQSPACE, WINDOWSIZE] at *
  omega

/-- The buffer within `W` of what is delivered, after the packet of message `a` of that range is stored (R111). -/
theorem memRead_storePacket {p : Packet} (hp : p.seqnum.toNat = a % SEQSPACE) (hlo : n ≤ a) (hhi : a < n + WINDOWSIZE)
    (hi : n ≤ i) (hi' : i < n + WINDOWSIZE) :
    memRead (storePacket p (countAck r)).rcv_buf i = if i = a then p else memRead r.rcv_buf i := by
  have hslot : p.seqnum.toNat % WINDOWSIZE % WINDOWSIZE = i % WINDOWSIZE ↔ i = a := by
    rw [hp]
    simp only [SEQSPACE, WINDOWSIZE] at *
    omega
  rw [storePacket_rcv_buf, countAck_rcv_buf, memRead_memWrite]
  exact if_congr hslot rfl rfl

/-- The message of the packet stored waits, and so does what waited before. -/
theorem holds_storePacket_iff {p : Packet} (hp : p.seqnum.toNat = a % SEQSPACE) (hlo : delivered.length ≤ a)
    (hhi : a < delivered.length + WINDOWSIZE) :
    Holds (storePacket p (countAck r)) delivered i ↔ Holds r delivered i ∨ i = a := by
  constructor
  · rintro ⟨hi, hi', hseq⟩
    rw [memRead_storePacket hp hlo hhi hi hi'] at hseq
    split_ifs at hseq with heq
    · exact .inr heq
    · exact .inl ⟨hi, hi', hseq⟩
  · rintro (⟨hi, hi', hseq⟩ | rfl)
    · refine ⟨hi, hi', ?_⟩
      rw [memRead_storePacket hp hlo hhi hi hi']
      split_ifs with heq
      · rw [hp, heq]
      · exact hseq
    · refine ⟨hlo, hhi, ?_⟩
      rw [memRead_storePacket hp hlo hhi hlo hhi, if_pos rfl, hp]

/-- The buffer's numbers after the packet of accepted message `a` is stored. -/
theorem BufferNumbered.store (h : BufferNumbered r delivered accepted) (ha : a < accepted.length)
    (hlo : delivered.length ≤ a) (hhi : a < delivered.length + WINDOWSIZE) :
    BufferNumbered (storePacket (packetNumbered accepted a) (countAck r)) delivered accepted where
  in_order := h.in_order
  expected := h.expected
  waiting := fun i hi => by
    obtain ⟨hseq, -, -⟩ := packetNumbered_fields accepted a
    obtain ⟨hi_lo, hi_hi, -⟩ := id hi
    rw [memRead_storePacket hseq hlo hhi hi_lo hi_hi]
    rcases (holds_storePacket_iff hseq hlo hhi).mp hi with hold | rfl
    · split_ifs with heq
      · subst heq
        exact ⟨ha, rfl⟩
      · exact h.waiting i hold
    · exact ⟨ha, if_pos rfl⟩

/-- The slot `j` places after the base is that of the `j`-th message after those delivered. -/
theorem BufferNumbered.slot_eq (h : BufferNumbered r delivered accepted) (hr : ReceiverInvariant r) (j : Nat) :
    memRead r.rcv_buf (r.rcv_base.toNat + j) = memRead r.rcv_buf (delivered.length + j) := by
  obtain ⟨-, -, -, hbase, -⟩ := hr
  have hplace : (r.rcv_base.toNat + j) % WINDOWSIZE = (delivered.length + j) % WINDOWSIZE := by
    rw [hbase, h.expected, Nat.mod_mod_of_dvd _ (by decide), Nat.mod_add_mod]
  rw [← memRead_mod, hplace, memRead_mod]

/-- The test of the delivery loop (R112): the message waits. -/
theorem BufferNumbered.waits_iff_holds (h : BufferNumbered r delivered accepted) (hr : ReceiverInvariant r) {j : Nat}
    (hj : j < WINDOWSIZE) : Waits r j ↔ Holds r delivered (delivered.length + j) := by
  rw [Waits, h.slot_eq hr, h.expected, Nat.mod_add_mod, Holds]
  exact ⟨fun hseq => ⟨Nat.le_add_right _ _, by omega, hseq⟩, fun ⟨_, _, hseq⟩ => hseq⟩

/-- What the delivery loop does to the receiver's part of the link: the `n` messages that waited in a row are delivered, the
receiver has the same messages as before, and it does not have the next one. -/
theorem BufferNumbered.deliver (h : BufferNumbered r delivered accepted) (hr : ReceiverInvariant r) {ms : List Message}
    (hdel : Delivered r r' ms n) (hn : n ≤ WINDOWSIZE) (hrun : ∀ j < n, Waits r j) (hstop : n < WINDOWSIZE → ¬ Waits r n) :
    BufferNumbered r' (delivered ++ ms) accepted
      ∧ (∀ i, Has r' (delivered ++ ms) i ↔ Has r delivered i)
      ∧ ¬ Holds r' (delivered ++ ms) (delivered ++ ms).length := by
  have hlength : (delivered ++ ms).length = delivered.length + n := by rw [List.length_append, hdel.length]
  have hheld : ∀ j < n, Holds r delivered (delivered.length + j) := fun j hj =>
    (h.waits_iff_holds hr (hj.trans_le hn)).mp (hrun j hj)
  have hholds : ∀ i, Holds r' (delivered ++ ms) i ↔ Holds r delivered i ∧ delivered.length + n ≤ i := fun i => by
    rw [Holds, Holds, hlength, hdel.buffer]
    refine ⟨fun ⟨hlo, hhi, hseq⟩ => ⟨⟨by omega, ?_, hseq⟩, hlo⟩, fun ⟨⟨_, hhi, hseq⟩, hlo⟩ => ⟨hlo, by omega, hseq⟩⟩
    by_contra hwrap
    obtain ⟨j, rfl⟩ := Nat.exists_eq_add_of_le (not_lt.mp hwrap)
    obtain ⟨-, -, hfirst⟩ := hheld j (by omega)
    have hslot : (delivered.length + WINDOWSIZE + j) % WINDOWSIZE = (delivered.length + j) % WINDOWSIZE := by
      rw [Nat.add_right_comm, Nat.add_mod_right]
    rw [← memRead_mod, hslot, memRead_mod, hfirst] at hseq
    simp only [SEQSPACE, WINDOWSIZE] at hseq
    omega
  refine ⟨⟨?_, ?_, fun i hi => ?_⟩, fun i => ?_, ?_⟩
  · have hms : ms = (List.range n).map fun j => accepted.getD (delivered.length + j) 0 := by
      rw [hdel.messages]
      refine List.map_congr_left fun j hj => ?_
      obtain ⟨-, hpacket⟩ := h.waiting _ (hheld j (List.mem_range.mp hj))
      obtain ⟨-, hpayload, -⟩ := packetNumbered_fields accepted (delivered.length + j)
      rw [h.slot_eq hr, hpacket, hpayload]
    rw [hms]
    refine append_getD_isPrefix h.in_order fun j hj => ?_
    obtain ⟨hlt, -⟩ := h.waiting _ (hheld j hj)
    exact hlt
  · rw [hdel.expected, h.expected, hlength, Nat.mod_add_mod]
  · rw [hdel.buffer]
    exact h.waiting i ((hholds i).mp hi).left
  · rw [Has, Has, hholds, hlength]
    constructor
    · rintro (hlt | ⟨hi, -⟩)
      · by_cases hbefore : i < delivered.length
        · exact .inl hbefore
        · obtain ⟨j, rfl⟩ := Nat.exists_eq_add_of_le (not_lt.mp hbefore)
          exact .inr (hheld j (by omega))
      · exact .inr hi
    · rintro (hlt | hi)
      · exact .inl (by omega)
      · exact (Nat.lt_or_ge i (delivered.length + n)).imp id fun hlater => ⟨hi, hlater⟩
  · rw [hholds, hlength]
    rintro ⟨hi, -⟩
    obtain ⟨-, hlt, -⟩ := id hi
    have hj : n < WINDOWSIZE := by omega
    exact hstop hj ((h.waits_iff_holds hr hj).mpr hi)

/-- An acknowledgment carries the number it echoes, and is not corrupted (R108). -/
theorem writtenAck_fields (own : BitVec SEQ_W) (e : Word) :
    (writtenAck own e).acknum = e ∧ corrupted (writtenAck own e) = false := by
  rw [← ackPacket_eq_writtenAck]
  exact ⟨rfl, corrupted_buildPacket _ _ _ _⟩

section Arrival

/-! The packet of accepted message `a` has left the channel and is given to the receiver. -/

variable (h : Consistent s r data acks accepted delivered) (ha : a < accepted.length)
  (hahead : ∀ i, Has r delivered i → i < a + WINDOWSIZE)
include h ha hahead

/-- It is less than `W` from what is delivered, so the receiver's test tells whether it is delivered. -/
theorem Consistent.arrival_range :
    a < delivered.length + WINDOWSIZE
      ∧ (InAcceptanceRange r (packetNumbered accepted a).seqnum ↔ delivered.length ≤ a) := by
  have hold : delivered.length ≤ a + WINDOWSIZE := le_add_windowSize_of_forall_lt fun i hi => hahead i (.inl hi)
  have hnew : a < delivered.length + WINDOWSIZE :=
    ha.trans_le (h.accepted_le.trans (Nat.add_le_add_right h.oldestLive_le _))
  exact ⟨hnew, inAcceptanceRange_packetNumbered_iff h.buffer.expected hold hnew⟩

/-- Where it is not delivered, storing it makes the receiver have it. -/
theorem Consistent.arrival_stored (hlo : delivered.length ≤ a) :
    ReceiverInvariant (storePacket (packetNumbered accepted a) (countAck r))
      ∧ BufferNumbered (storePacket (packetNumbered accepted a) (countAck r)) delivered accepted
      ∧ ∀ i, Has (storePacket (packetNumbered accepted a) (countAck r)) delivered i ↔ Has r delivered i ∨ i = a := by
  obtain ⟨hseq, -, hok⟩ := packetNumbered_fields accepted a
  obtain ⟨hnew, -⟩ := h.arrival_range ha hahead
  have hcounted := receiverInvariant_countAck h.receiver_good
  refine ⟨receiverInvariant_storePacket hcounted hok (hseq ▸ Nat.mod_lt _ (by decide)), h.buffer.store ha hlo hnew,
    fun i => ?_⟩
  rw [Has, holds_storePacket_iff hseq hlo hnew, Has, or_assoc]

variable (hdata : InFlight (DataNames accepted) data fun i => Has r delivered i ∨ i = a)
include hdata

/-- The receiver acknowledges it, and has message `a` after, and otherwise what it had before. -/
theorem Consistent.take {delivered' : List Message} (hr' : ReceiverInvariant r')
    (hbuffer : BufferNumbered r' delivered' accepted) (hmissing : ¬ Holds r' delivered' delivered'.length)
    (hhas : ∀ i, Has r' delivered' i ↔ Has r delivered i ∨ i = a) :
    Consistent s r' data (acks ++ [writtenAck r.b_nextseqnum (packetNumbered accepted a).seqnum]) accepted delivered' := by
  have htaken : Consistent s r' data acks accepted delivered' :=
    { h with
      receiver_good := hr'
      buffer := hbuffer
      next_missing := hmissing
      acknowledged := fun i hi => (hhas i).mpr (.inl (h.acknowledged i hi))
      data_in_flight := hdata.imp (fun _ _ => id) fun i => (hhas i).mp
      acks_in_flight := h.acks_in_flight.imp (fun _ b hb => ⟨(hhas b).mpr (.inl hb.left), hb.right⟩) fun _ => id }
  obtain ⟨hseq, -, -⟩ := packetNumbered_fields accepted a
  obtain ⟨hechoed, hok⟩ := writtenAck_fields r.b_nextseqnum (packetNumbered accepted a).seqnum
  refine htaken.sendAck ⟨(hhas a).mpr (.inr rfl), hok, by rw [hechoed, hseq]⟩ fun i hi => ?_
  rcases (hhas i).mp hi with hi | rfl
  · exact hahead i hi
  · exact Nat.lt_add_of_pos_right (by decide)

/-- A message delivered before is out of range: it is acknowledged again (R110). -/
theorem Consistent.arrival_of_delivered (hdelivered : a < delivered.length) :
    ConsistentAfter s data acks accepted delivered (rcvPkt (packetNumbered accepted a) r) := by
  obtain ⟨-, -, hok⟩ := packetNumbered_fields accepted a
  obtain ⟨-, hrange⟩ := h.arrival_range ha hahead
  rw [ConsistentAfter, rcvPkt_of_out_of_range hok (mt hrange.mp (not_le.mpr hdelivered))]
  simp only [transmitted_cons_evt, transmitted_cons_tx, transmitted_nil, deliveries_cons_evt, deliveries_cons_tx,
    deliveries_nil, List.append_nil]
  exact h.take ha hahead hdata (receiverInvariant_countAck h.receiver_good)
    ⟨h.buffer.in_order, h.buffer.expected, h.buffer.waiting⟩ h.next_missing
    fun i => (or_iff_left_of_imp fun heq => .inl (heq ▸ hdelivered)).symm

/-- A message after the next one is stored (R111, R113). -/
theorem Consistent.arrival_of_later (hlater : delivered.length < a) :
    ConsistentAfter s data acks accepted delivered (rcvPkt (packetNumbered accepted a) r) := by
  obtain ⟨hseq, -, hok⟩ := packetNumbered_fields accepted a
  obtain ⟨hnew, hrange⟩ := h.arrival_range ha hahead
  obtain ⟨hgood, hstored, hhas⟩ := h.arrival_stored ha hahead hlater.le
  have hunexpected : (packetNumbered accepted a).seqnum.toNat ≠ r.expectedseqnum.toNat := fun hmod => by
    rw [hseq, h.buffer.expected] at hmod
    exact hlater.ne' (eq_of_mod_seqspace_eq hmod (hnew.trans (Nat.add_lt_add_left (by decide) _)) (by omega))
  rw [ConsistentAfter, rcvPkt_of_unexpected hok (hrange.mpr hlater.le) hunexpected]
  simp only [transmitted_cons_evt, transmitted_cons_tx, transmitted_nil, deliveries_cons_evt, deliveries_cons_tx,
    deliveries_nil, List.append_nil]
  refine h.take ha hahead hdata hgood hstored (fun hnext => ?_) hhas
  rcases (holds_storePacket_iff hseq hlater.le hnew).mp hnext with hnext | hself
  · exact h.next_missing hnext
  · exact hlater.ne hself

/-- The next message is stored and delivered, with all that waits behind it (R112). -/
theorem Consistent.arrival_of_next (hnext : a = delivered.length) :
    ConsistentAfter s data acks accepted delivered (rcvPkt (packetNumbered accepted a) r) := by
  obtain ⟨hseq, -, hok⟩ := packetNumbered_fields accepted a
  obtain ⟨hgood, hstored, hhas⟩ := h.arrival_stored ha hahead hnext.ge
  obtain ⟨hlt, -, hbase, -, -⟩ := id hgood
  obtain ⟨n, hn, hdel, hrun, hstop⟩ := deliverRun_delivered WINDOWSIZE hbase hlt
  obtain ⟨hbuffer, hsame, hmissing⟩ := hstored.deliver hgood hdel hn hrun hstop
  have hexpected : (packetNumbered accepted a).seqnum = zextSeq r.expectedseqnum := by
    rw [← BitVec.toNat_inj, zextSeq_toNat, hseq, h.buffer.expected, hnext]
  rw [ConsistentAfter, rcvPkt_of_expected (r := r) hok hlt hexpected]
  simp only [List.cons_append, List.nil_append, transmitted_cons_evt, transmitted_cons_tx, transmitted_map_deliver,
    deliveries_cons_evt, deliveries_cons_tx, deliveries_map_deliver]
  exact h.take ha hahead hdata (receiverInvariant_deliverRun hgood _) hbuffer hmissing fun i => (hsame i).trans (hhas i)

end Arrival

/-- A data packet arrives unchanged, or so changed that the checksum shows it. -/
theorem consistent_rcvPkt {p q : Packet} (h : Consistent s r (q :: data) acks accepted delivered)
    (hp : p = q ∨ corrupted p = true) : ConsistentAfter s data acks accepted delivered (rcvPkt p r) := by
  rcases hp with rfl | hbad
  · obtain ⟨a, ⟨ha, rfl⟩, hahead, hrest⟩ := h.data_in_flight.uncons
    have harrived := h.dropData rfl
    rcases lt_trichotomy a delivered.length with hdelivered | hnext | hlater
    · exact harrived.arrival_of_delivered ha hahead hrest hdelivered
    · exact harrived.arrival_of_next ha hahead hrest hnext
    · exact harrived.arrival_of_later ha hahead hrest hlater
  · rw [ConsistentAfter, rcvPkt_of_corrupted hbad]
    simpa using h.dropData rfl

end Sys2Proof.Machine
end

section
/-! The link (60_exceptions.md R136): its invariant is that of its two engines and two channels, every action of the
environment whose corruption is detected keeps it, and so the messages delivered begin those accepted
(70_reset_and_hazards.md R159). -/

namespace Sys2Proof.Machine

open Config

/-! ## The link invariant by its parts -/

section Parts

variable {s : SenderState} {r : ReceiverState} {accepted delivered : List Message} {x : Nat}

/-- Everything the receiver has lies below `x`, by what it has delivered and what waits. -/
theorem forall_has_lt_iff :
    (∀ i, Has r delivered i → i < x)
      ↔ delivered.length ≤ x
        ∧ ∀ j < WINDOWSIZE, Holds r delivered (delivered.length + j) → delivered.length + j < x := by
  constructor
  · intro h
    refine ⟨?_, fun j _ hj => h _ (.inr hj)⟩
    by_contra hlater
    exact lt_irrefl x (h x (.inl (not_le.mp hlater)))
  · rintro ⟨hlength, hwaiting⟩ i (hi | hi)
    · exact hi.trans_le hlength
    · obtain ⟨hlo, hhi, -⟩ := id hi
      obtain ⟨j, rfl⟩ := Nat.exists_eq_add_of_le hlo
      exact hwaiting j (by omega) hi

/-- Everything acknowledged at the sender lies below `x`, by what has slid out and what is live. -/
theorem forall_acknowledged_lt_iff :
    (∀ i, Acknowledged s accepted i → i < x)
      ↔ oldestLive s accepted ≤ x
        ∧ ∀ k < liveCount s, (liveSlot s k).acked = true → oldestLive s accepted + k < x := by
  constructor
  · intro h
    refine ⟨?_, fun k hk hacked => h _ (.inr ⟨k, hk, rfl, hacked⟩)⟩
    by_contra hlater
    exact lt_irrefl x (h x (.inl (not_le.mp hlater)))
  · rintro ⟨hold, hlive⟩ i (hi | ⟨k, hk, rfl, hacked⟩)
    · exact hi.trans_le hold
    · exact hlive k hk hacked

/-- What is acknowledged at the sender the receiver has, where the receiver does not have the next message. -/
theorem forall_acknowledged_has_iff (hmissing : ¬ Holds r delivered delivered.length) :
    (∀ i, Acknowledged s accepted i → Has r delivered i)
      ↔ oldestLive s accepted ≤ delivered.length
        ∧ ∀ k < liveCount s, (liveSlot s k).acked = true → Has r delivered (oldestLive s accepted + k) := by
  constructor
  · intro h
    refine ⟨?_, fun k hk hacked => h _ (.inr ⟨k, hk, rfl, hacked⟩)⟩
    by_contra hlater
    exact (h _ (.inl (not_le.mp hlater))).elim (lt_irrefl _) hmissing
  · rintro ⟨hold, hlive⟩ i (hi | ⟨k, hk, rfl, hacked⟩)
    · exact .inl (hi.trans_le hold)
    · exact hlive k hk hacked

/-- The messages in the receiver's range, by their distance from the next one. -/
theorem forall_holds_iff {P : Nat → Prop} :
    (∀ i, Holds r delivered i → P i)
      ↔ ∀ j < WINDOWSIZE, Holds r delivered (delivered.length + j) → P (delivered.length + j) := by
  refine ⟨fun h j _ hj => h _ hj, fun h i hi => ?_⟩
  obtain ⟨hlo, hhi, -⟩ := id hi
  obtain ⟨j, rfl⟩ := Nat.exists_eq_add_of_le hlo
  exact h j (by omega) hi

end Parts

/-- Relations that say something of the number alone, apart from the rest. -/
theorem forall₂_and_right {R : Packet → Nat → Prop} {P : Nat → Prop} {channel : List Packet} {numbers : List Nat} :
    List.Forall₂ (fun p a => P a ∧ R p a) channel numbers ↔ List.Forall₂ R channel numbers ∧ ∀ a ∈ numbers, P a := by
  refine ⟨fun h => ⟨h.imp fun _ _ => And.right, forall_right_of_forall₂ h fun _ _ => And.left⟩, ?_⟩
  rintro ⟨h, hP⟩
  induction h with
  | nil => exact .nil
  | cons hR _ ih =>
    obtain ⟨hfirst, hrest⟩ := List.forall_mem_cons.mp hP
    exact .cons ⟨hfirst, hR⟩ (ih hrest)

theorem oldestNumber_eq (l : Link) : oldestNumber l = oldestLive l.blockA.sender l.accepted := rfl

theorem dataInFlight_iff (l : Link) :
    DataInFlight l ↔ InFlight (DataNames l.accepted) l.dataChannel (Has l.blockB.receiver l.delivered) := by
  refine exists_congr fun numbers => ?_
  rw [forall₂_and_right, ← List.forall₂_map_right_iff (R := Eq), List.forall₂_eq_eq_eq]
  simp only [forall_has_lt_iff, forall_and]
  tauto

theorem acksInFlight_iff (l : Link) :
    AcksInFlight l ↔
      InFlight (AckNames (Has l.blockB.receiver l.delivered)) l.ackChannel (Acknowledged l.blockA.sender l.accepted) := by
  refine exists_congr fun numbers => ?_
  rw [forall₂_and_right]
  simp only [forall_acknowledged_lt_iff, forall_and, oldestNumber_eq]
  tauto

/-- The link invariant is that of block A's sender, block B's receiver and the channels, beside the engines that the link
does not use. -/
theorem linkInvariant_iff (l : Link) :
    LinkInvariant l ↔ ReceiverInvariant l.blockA.receiver ∧ SenderInvariant l.blockB.sender
      ∧ Consistent l.blockA.sender l.blockB.receiver l.dataChannel l.ackChannel l.accepted l.delivered := by
  rw [LinkInvariant, dataInFlight_iff, acksInFlight_iff]
  constructor
  · rintro ⟨⟨hsA, hrA⟩, ⟨hsB, hrB⟩, ⟨hlive, hnext, hslots⟩, ⟨horder, hexpected, hold, hmissing, hwaiting⟩, hdata, hacks⟩
    refine ⟨hrA, hsB, hsA, hrB, ⟨hlive, hnext, fun k hk => (hslots k hk).left⟩, ⟨horder, hexpected, ?_⟩, hmissing, ?_, hdata,
      hacks⟩
    · exact forall_holds_iff.mpr hwaiting
    · exact (forall_acknowledged_has_iff hmissing).mpr ⟨hold, fun k hk => (hslots k hk).right⟩
  · rintro ⟨hrA, hsB, h⟩
    obtain ⟨hold, hacked⟩ := (forall_acknowledged_has_iff h.next_missing).mp h.acknowledged
    exact ⟨⟨h.sender_good, hrA⟩, ⟨hsB, h.receiver_good⟩,
      ⟨h.window.live_le, h.window.next, fun k hk => ⟨h.window.slot k hk, hacked k hk⟩⟩,
      ⟨h.buffer.in_order, h.buffer.expected, hold, h.next_missing, forall_holds_iff.mp h.buffer.waiting⟩,
      h.data_in_flight, h.acks_in_flight⟩

/-! ## The actions of the environment -/

@[simp] theorem afterCommand_sndSubmit (m : Message) (s : State) :
    afterCommand (.sndSubmit m) s = concludeSender s (sndSubmit m s.sender) := rfl
@[simp] theorem afterCommand_sndPkt (p : Packet) (s : State) :
    afterCommand (.sndPkt p) s = concludeSender s (sndPkt p s.sender) := rfl
@[simp] theorem afterCommand_sndTimeout (s : State) :
    afterCommand .sndTimeout s = concludeSender s (sndTimeout s.sender) := rfl
@[simp] theorem afterCommand_rcvPkt (p : Packet) (s : State) :
    afterCommand (.rcvPkt p) s = concludeReceiver s (rcvPkt p s.receiver) := rfl

/-- Block A has run a command: the engines that the link does not use are as they were. -/
theorem linkInvariant_of_sender {l l' : Link} (h : LinkInvariant l) {x : Reaction SenderState}
    (hA : l'.blockA = concludeSender l.blockA x) (hB : l'.blockB = l.blockB)
    (hl : Consistent x.state l.blockB.receiver l'.dataChannel l'.ackChannel l'.accepted l'.delivered) :
    LinkInvariant l' := by
  obtain ⟨hrA, hsB, -⟩ := (linkInvariant_iff l).mp h
  rw [linkInvariant_iff, hA, hB]
  exact ⟨hrA, hsB, hl⟩

/-- Block B has run a command. -/
theorem linkInvariant_of_receiver {l l' : Link} (h : LinkInvariant l) {x : Reaction ReceiverState}
    (hA : l'.blockA = l.blockA) (hB : l'.blockB = concludeReceiver l.blockB x)
    (hl : Consistent l.blockA.sender x.state l'.dataChannel l'.ackChannel l'.accepted l'.delivered) : LinkInvariant l' := by
  obtain ⟨hrA, hsB, -⟩ := (linkInvariant_iff l).mp h
  rw [linkInvariant_iff, hA, hB]
  exact ⟨hrA, hsB, hl⟩

/-- Neither block has run a command. -/
theorem linkInvariant_of_channels {l l' : Link} (h : LinkInvariant l) (hA : l'.blockA = l.blockA)
    (hB : l'.blockB = l.blockB)
    (hl : Consistent l.blockA.sender l.blockB.receiver l'.dataChannel l'.ackChannel l'.accepted l'.delivered) :
    LinkInvariant l' := by
  obtain ⟨hrA, hsB, -⟩ := (linkInvariant_iff l).mp h
  rw [linkInvariant_iff, hA, hB]
  exact ⟨hrA, hsB, hl⟩

/-- A submission: the history grows exactly where the window does. -/
theorem linkInvariant_submit {l : Link} (h : LinkInvariant l) (m : Message) :
    LinkInvariant { senderRuns l (.sndSubmit m) with
      accepted :=
        if (senderRuns l (.sndSubmit m)).blockA.response = some (respond .submitAccepted) then l.accepted ++ [m]
        else l.accepted } := by
  obtain ⟨-, -, hl⟩ := (linkInvariant_iff l).mp h
  by_cases hroom : liveCount l.blockA.sender < WINDOWSIZE
  · have hafter : afterCommand (.sndSubmit m) l.blockA = concludeSender l.blockA (sndAccept m l.blockA.sender) := by
      rw [afterCommand_sndSubmit, sndSubmit_of_lt m hroom]
    have hresponse : (senderRuns l (.sndSubmit m)).blockA.response = some (respond .submitAccepted) := by
      rw [senderRuns_blockA, hafter]
      rfl
    rw [if_pos hresponse]
    refine linkInvariant_of_sender h hafter (senderRuns_blockB l (.sndSubmit m)) ?_
    simpa only [senderRuns_dataChannel, senderRuns_ackChannel, senderRuns_delivered, hafter, concludeSender_outputs]
      using consistent_sndAccept hl m hroom
  · have hafter : afterCommand (.sndSubmit m) l.blockA = concludeSender l.blockA (sndReject l.blockA.sender) := by
      rw [afterCommand_sndSubmit, sndSubmit_of_not_lt m hroom]
    have hresponse : (senderRuns l (.sndSubmit m)).blockA.response ≠ some (respond .submitAccepted) := by
      rw [senderRuns_blockA, hafter]
      simp [sndReject, respond]
    rw [if_neg hresponse]
    refine linkInvariant_of_sender h hafter (senderRuns_blockB l (.sndSubmit m)) ?_
    simpa [hafter, sndReject] using hl

/-- Where the corruption of an arriving packet is detected, it is the oldest in flight or is seen to be corrupted. -/
theorem eq_or_corrupted_of_detected {channel rest : List Packet} {p asSeen : Packet} (hc : channel = p :: rest)
    (h : (channel.head? == some asSeen || corrupted asSeen) = true) : asSeen = p ∨ corrupted asSeen = true := by
  rw [hc, Bool.or_eq_true, beq_iff_eq, List.head?_cons, Option.some.injEq] at h
  exact h.imp Eq.symm id

/-- Every action of the environment whose corruption is detected keeps the link invariant. -/
theorem linkInvariant_linkMove {l l' : Link} {x : LinkAction} (h : LinkInvariant l) (hx : corruptionDetected l x = true)
    (hmove : LinkMove l x l') : LinkInvariant l' := by
  obtain ⟨-, -, hl⟩ := (linkInvariant_iff l).mp h
  cases hmove with
  | submit m => exact linkInvariant_submit h m
  | dataArrives asSeen p rest hc =>
    rw [hc] at hl
    have hseen := eq_or_corrupted_of_detected hc hx
    refine linkInvariant_of_receiver h (receiverRuns_blockA _ _) (receiverRuns_blockB _ _) ?_
    simpa using consistent_rcvPkt hl hseen
  | dataLost p rest hc => exact linkInvariant_of_channels h rfl rfl (hl.dropData hc)
  | ackArrives asSeen p rest hc =>
    rw [hc] at hl
    have hseen := eq_or_corrupted_of_detected hc hx
    refine linkInvariant_of_sender h (senderRuns_blockA _ _) (senderRuns_blockB _ _) ?_
    simpa using consistent_sndPkt hl hseen
  | ackLost p rest hc => exact linkInvariant_of_channels h rfl rfl (hl.dropAck hc)
  | timerExpires =>
    refine linkInvariant_of_sender h (senderRuns_blockA _ _) (senderRuns_blockB _ _) ?_
    simpa [hl.sender_good.sndTimeout_state] using consistent_sndTimeout hl

/-- Both ends reset with nothing in flight: nothing is live, nothing waits. -/
theorem linkInvariant_initialLink : LinkInvariant initialLink := by
  have hmissing : ∀ i, ¬ Holds ReceiverStateOf.reset [] i := fun i ⟨_, _, hseq⟩ => by
    rw [memRead_reset_rcv_buf] at hseq
    have hlt : i % SEQSPACE < SEQSPACE := Nat.mod_lt _ (by decide)
    rw [← hseq] at hlt
    exact absurd hlt (by decide)
  refine (linkInvariant_iff _).mpr ⟨receiverInvariant_reset, senderInvariant_reset,
    { sender_good := senderInvariant_reset
      receiver_good := receiverInvariant_reset
      window := ⟨Nat.le_refl 0, rfl, fun k hk => absurd hk (Nat.not_lt_zero k)⟩
      buffer := ⟨⟨[], rfl⟩, rfl, fun i hi => absurd hi (hmissing i)⟩
      next_missing := hmissing _
      acknowledged := ?_
      data_in_flight := .nil
      acks_in_flight := .nil }⟩
  rintro i (hi | ⟨k, hk, -, -⟩)
  · exact absurd hi (Nat.not_lt_zero i)
  · exact absurd hk (Nat.not_lt_zero k)

theorem LinkInvariant.in_order {l : Link} (h : LinkInvariant l) : l.delivered <+: l.accepted := by
  obtain ⟨-, -, hl⟩ := (linkInvariant_iff l).mp h
  exact hl.buffer.in_order

/-- Settles O59: the invariant by its parts, kept by every action. -/
theorem linkInvariantIsKept : Obligations.LinkInvariantIsKept :=
  ⟨linkInvariant_initialLink, fun _ _ _ h hx hact => linkInvariant_linkMove h hx (linkMove_of_linkAct hact),
    fun _ h => h.in_order⟩

/-! ## Runs -/

theorem allCorruptionDetected_cons {x : LinkAction} {rest : List LinkAction} {l m : Link} (hact : linkAct l x = some m)
    (h : allCorruptionDetected (x :: rest) l = true) :
    corruptionDetected l x = true ∧ allCorruptionDetected rest m = true := by
  simpa [allCorruptionDetected, hact] using h

theorem linkInvariant_linkRun {actions : List LinkAction} {l l' : Link} (h : LinkInvariant l)
    (hrun : linkRun actions l = some l') (hdetected : allCorruptionDetected actions l = true) : LinkInvariant l' := by
  induction actions generalizing l with
  | nil => cases hrun; exact h
  | cons x rest ih =>
    obtain ⟨m, hact, hrest⟩ := linkRun_cons_eq_some_iff.mp hrun
    obtain ⟨hx, hlater⟩ := allCorruptionDetected_cons hact hdetected
    exact ih (linkInvariant_linkMove h hx (linkMove_of_linkAct hact)) hrest hlater

/-- Settles O57: the link invariant holds at the end of the run. -/
theorem linkDeliversInOrderExactlyOnce : Obligations.LinkDeliversInOrderExactlyOnce := by
  intro actions l hrun hdetected
  exact (linkInvariant_linkRun linkInvariant_initialLink hrun hdetected).in_order

end Sys2Proof.Machine
end
